-- ==== Sys2Proof/Word.lean ====
section
/-! DEFINITION. The bit-vector types FCB's values have (spec/00_scope.md R9, R11, R12; all values are unsigned). -/

namespace Sys2Proof

/-- One byte of a frame, of a buffer or of the serial stream (R9). -/
abbrev Byte := BitVec 8

/-- A byte sequence; byte 0 is the first received or transmitted (R12). -/
abbrev Bytes := List Byte

/-- A time reading of W_TIME = 32 bits (R11, R248). -/
abbrev Time := BitVec 32

/-- A 16-bit parameter ID (R9, R43). -/
abbrev ParamId := BitVec 16

end Sys2Proof
end

