-- ==== Sys2Proof/Config.lean ====
section
/-! DEFINITION. The sizes the spec fixes (spec/00_scope.md R9, R11) and the ten parameters it leaves open (R10). -/

namespace Sys2Proof.Config

/-- HDR: bytes of a frame before its payload (R9, C1). -/
abbrev hdr : Nat := 6

/-- CAP: capacity in bytes of each of the three buffers (R11, D5). -/
abbrev cap : Nat := 257

/-- MAX_PAYLOAD = CAP - 7 (R11). -/
abbrev maxPayload : Nat := cap - 7

/-- The open parameters of R10, constant for the life of the machine (R8, R305). The spec takes them as
arguments of the model; the machine carries them in `State.cfg` (log 1). -/
structure Params where
  /-- START_MARKER, first byte of every frame (D3). -/
  startMarker : Byte
  /-- RESYNC_MARKER, the one-byte control message (D4). -/
  resyncMarker : Byte
  /-- DUMMY_TX, the byte written at offset 4 on encode (D6). -/
  dummyTx : Byte
  /-- T_INTERBYTE, the inter-byte timeout (D7). -/
  tInterbyte : Time
  /-- T_RESPONSE, the response timeout (D8). -/
  tResponse : Time
  /-- MAX_RETRIES, 0 to 255 (D9). -/
  maxRetries : BitVec 8
  /-- SEQ_SENTINEL, the value a resynchronization gives the transmit counter (D10). -/
  seqSentinel : Byte
  /-- REG_CAP, the registry's capacity in entries (D19). -/
  regCap : Nat
  /-- REPLY_AWAITS, whether SEND_REPLY sets the awaiting flag (D17, C4). -/
  replyAwaits : Bool
  /-- TAG_INIT, read by the FSM only, never by FCB (D35). -/
  tagInit : Byte
deriving DecidableEq, Repr

/-- REF, the spec's own arbitrary instantiation (R10, R16). -/
def Params.ref : Params where
  startMarker := 0x5A
  resyncMarker := 0x66
  dummyTx := 0x00
  tInterbyte := 50
  tResponse := 1000
  maxRetries := 3
  seqSentinel := 0xFF
  regCap := 64
  replyAwaits := false
  tagInit := 0x01

/-- The constraints R10 and R305 put on the parameters (MAX_RETRIES <= 255 holds by its width). -/
def Params.wf (p : Params) : Bool :=
  p.startMarker != p.resyncMarker && decide (p.tInterbyte.toNat < 2 ^ 31) &&
    decide (p.tResponse.toNat < 2 ^ 31) && decide (1 ≤ p.regCap)

end Sys2Proof.Config
end

