-- ==== Sys2Proof/Syntax/Operand.lean ====
section
/-! DEFINITION. The operand types of the operations (spec/30_encoding.md R110) and the formats of their encodings. -/

namespace Sys2Proof

/-- The cause a resynchronization event carries (R47, D18). -/
inductive Cause where
  | marker
  | retryExhausted
deriving DecidableEq, Repr

/-- The receiver's two states (spec/10_state.md R22). -/
inductive RxState where
  | idle
  | accum
deriving DecidableEq, Repr

/-- What the classification of a received byte reads of the receiver (R142). -/
structure RxContext where
  state    : RxState
  lastTime : Time
deriving DecidableEq, Repr

/-- One update request of a batch: an ID and its bytes (R44). -/
structure Update where
  id    : ParamId
  bytes : Bytes
deriving DecidableEq, Repr

/-- The field CS_SET writes together with a value of that field's width (R245). -/
inductive CsWrite where
  | sessionId    (v : BitVec 24)
  | lastPingTime (v : Time)
  | lastPollTime (v : Time)
deriving DecidableEq, Repr

/-- The operations a client may perform in steps (c) and (d) of a tick: "any of FIELDS, SEND, SEND_REPLY,
CS_SET, REG_* in any number and order" (spec/44_tick_host.md R241). -/
inductive ClientOp where
  | fields
  | send      (command : BitVec 16) (payload : Bytes) (posted : Bool) (now : Time)
  | sendReply (counter : Byte) (command : BitVec 16) (payload : Bytes) (now : Time)
  | regClear
  | regDefine (id : ParamId) (tag size : Byte)
  | regGet    (id : ParamId)
  | regQueue  (updates : List Update)
  | regApply  (updates : List Update)
  | regFlush
  | regParse  (block : Bytes)
  | regInfo   (id : ParamId)
  | regAt     (k : Nat)
  | csSet     (w : CsWrite)
deriving DecidableEq, Repr

/-- The "format" column of spec/opcode_table.json: which encoding a packet's bytes are in. -/
inductive Format where
  /-- an operation index and its operands (R110) -/
  | op
  /-- one byte as the receiver takes it (R141) -/
  | rxByte
  /-- a whole frame (R90) -/
  | frame
  /-- the one-byte resync message (R96) -/
  | resync
  /-- one triple of a parameter block (R97) -/
  | triple
deriving DecidableEq, Repr

/-- One encoded instruction: its format and its bytes, the first byte first. -/
structure Packet where
  fmt   : Format
  bytes : Bytes
deriving DecidableEq, Repr

/-- What the outside world gives the machine, one item a step (log 5, log 8). -/
inductive Input where
  /-- the client selects an operation, or a message stands on the wire -/
  | packet (p : Packet)
  /-- the serial transport receives bytes, which wait in its queue -/
  | line (bytes : Bytes)
deriving DecidableEq, Repr

end Sys2Proof
end

