-- ==== Sys2Proof/Syntax.lean ====
section
/-! DEFINITION. The instructions: one constructor per row of spec/opcode_table.json, in the table's order. -/

namespace Sys2Proof

/-- The operations of R110, then the byte classes of RX_BYTE (R143 to R146) and the wire formats (R90, R92,
R96, R97), which have rows of their own in the table. `now` is the time operand of R248. -/
inductive Instr where
  -- 40_codec.md
  | cksum     (s : Bytes)
  | encode    (counter : Byte) (command : BitVec 16) (payload : Bytes)
  | verify    (f : Bytes)
  | fields
  -- 41_receiver.md
  | rxByte    (b : Byte) (now : Time)
  | rxDrain   (times : List Time)
  | rxRelease
  -- 42_transmitter.md
  | send      (command : BitVec 16) (payload : Bytes) (posted : Bool) (now : Time)
  | sendReply (counter : Byte) (command : BitVec 16) (payload : Bytes) (now : Time)
  | txPoll    (now : Time)
  | resync    (cause : Cause)
  -- 43_registry.md
  | regClear
  | regDefine (id : ParamId) (tag size : Byte)
  | regGet    (id : ParamId)
  | regQueue  (updates : List Update)
  | regApply  (updates : List Update)
  | regFlush
  | regParse  (block : Bytes)
  | regInfo   (id : ParamId)
  | regAt     (k : Nat)
  -- 44_tick_host.md
  | tick      (drainTimes : List Time) (pollTime : Time) (stepC stepD : List ClientOp)
  | csSet     (w : CsWrite)
  -- the cases of RX_BYTE
  | rxStart   (b : Byte) (now : Time)
  | rxResync  (b : Byte) (now : Time)
  | rxNoise   (b : Byte) (now : Time)
  | rxData    (b : Byte) (now : Time)
  -- the wire formats: a frame (its marker is START_MARKER, its length byte the payload's length), the resync
  -- byte, a triple; `now` is the time at which the receiver takes the message's bytes
  | frameReq  (seq : Byte) (command : BitVec 15) (dummy : Byte) (payload : Bytes) (cksum : Byte) (now : Time)
  | frameRsp  (seq : Byte) (command : BitVec 15) (dummy : Byte) (payload : Bytes) (cksum : Byte) (now : Time)
  | resyncByte (now : Time)
  | triple    (id : ParamId) (tbytes : Bytes)
deriving DecidableEq, Repr

/-- A client operation as the instruction of the same name. -/
def ClientOp.toInstr : ClientOp → Instr
  | .fields => .fields
  | .send command payload posted now => .send command payload posted now
  | .sendReply counter command payload now => .sendReply counter command payload now
  | .regClear => .regClear
  | .regDefine id tag size => .regDefine id tag size
  | .regGet id => .regGet id
  | .regQueue updates => .regQueue updates
  | .regApply updates => .regApply updates
  | .regFlush => .regFlush
  | .regParse block => .regParse block
  | .regInfo id => .regInfo id
  | .regAt k => .regAt k
  | .csSet w => .csSet w

end Sys2Proof
end

