-- ==== Sys2Proof/WellFormed.lean ====
section
/-! DEFINITION. Which instructions the encodings can express (spec/30_encoding.md R90 to R98, R110; log 6). -/

namespace Sys2Proof

/-- A sequence whose length the four-byte length field of a packet can hold (log 6). -/
def seqFits {α : Type} (xs : List α) : Bool := decide (xs.length < 2 ^ 32)

/-- An update's bytes are "0 to 255 bytes" (R44). -/
def Update.wf (u : Update) : Bool := decide (u.bytes.length ≤ 255)

/-- A batch whose updates and whose count a packet can hold. -/
def updatesFit (us : List Update) : Bool := seqFits us && us.all Update.wf

/-- A position that the four bytes of REG_AT's operand can hold. DESIGN CHOICE: the spec gives `k` no width (R110, R208;
log 6). -/
def indexFits (k : Nat) : Bool := decide (k < 2 ^ 32)

def ClientOp.wf : ClientOp → Bool
  | .fields => true
  | .send _ payload _ _ => seqFits payload
  | .sendReply _ _ payload _ => seqFits payload
  | .regClear => true
  | .regDefine _ _ _ => true
  | .regGet _ => true
  | .regQueue updates => updatesFit updates
  | .regApply updates => updatesFit updates
  | .regFlush => true
  | .regParse block => seqFits block
  | .regInfo _ => true
  | .regAt k => indexFits k
  | .csSet _ => true

/-- `i.wf c`: the instruction has an encoding under the parameters `c`. A payload of more than 250 bytes is
well-formed in SEND, SEND_REPLY and ENCODE (the operation then fails, R123, R172); it is not in a frame (R90).
The byte of an RX.* case meets the part of the row's condition that speaks of the byte (R143 to R145). -/
def Instr.wf (c : Config.Params) : Instr → Bool
  | .cksum s => seqFits s
  | .encode _ _ payload => seqFits payload
  | .verify f => seqFits f
  | .fields => true
  | .rxByte _ _ => true
  | .rxDrain times => seqFits times
  | .rxRelease => true
  | .send _ payload _ _ => seqFits payload
  | .sendReply _ _ payload _ => seqFits payload
  | .txPoll _ => true
  | .resync _ => true
  | .regClear => true
  | .regDefine _ _ _ => true
  | .regGet _ => true
  | .regQueue updates => updatesFit updates
  | .regApply updates => updatesFit updates
  | .regFlush => true
  | .regParse block => seqFits block
  | .regInfo _ => true
  | .regAt k => indexFits k
  | .tick drainTimes _ stepC stepD =>
      seqFits drainTimes && (seqFits stepC && stepC.all ClientOp.wf) && (seqFits stepD && stepD.all ClientOp.wf)
  | .csSet _ => true
  | .rxStart b _ => b == c.startMarker
  | .rxResync b _ => b == c.resyncMarker && b != c.startMarker
  | .rxNoise b _ => b != c.startMarker && b != c.resyncMarker
  | .rxData _ _ => true
  | .frameReq _ _ _ payload _ _ => decide (payload.length ≤ Config.maxPayload)
  | .frameRsp _ _ _ payload _ _ => decide (payload.length ≤ Config.maxPayload)
  | .resyncByte _ => true
  | .triple _ tbytes => decide (tbytes.length ≤ 255)

end Sys2Proof
end

