-- ==== Sys2Proof/Decode.lean ====
section
/-! DEFINITION. From bytes to instructions and back.

The wire layouts (frame, resync byte, triple, received byte) are the spec's (spec/30_encoding.md R90 to R102).
The operation index of an OP packet is the spec's (R110); the layout of the operands after it is the model's,
because the source gives operations no binary form (log 6): operands in the order of R110, multi-byte numbers
little-endian, a byte sequence or a list preceded by its length in four bytes, an update's bytes by one byte, the
position of REG_AT in four bytes. -/

namespace Sys2Proof

/-- Why a packet stands for no instruction. -/
inductive DecodeError where
  /-- the packet ends before its operands do -/
  | truncated
  /-- the index names no operation that may stand here (R111; in a client list of TICK, R241) -/
  | noSuchOperation (op : Byte)
  /-- a boolean operand that is neither 0 nor 1 -/
  | badBool (b : Byte)
  /-- a cause that is neither MARKER nor RETRY_EXHAUSTED (R190) -/
  | badCause (b : Byte)
  /-- "Any other `field` is refused" (R245) -/
  | badField (b : Byte)
  /-- the first byte is not START_MARKER (R90) -/
  | notAFrame (b : Byte)
  /-- a declared length above 250 (R90, R106) -/
  | frameLength (b : Byte)
  /-- the byte is not RESYNC_MARKER (R96) -/
  | notResync (b : Byte)
  /-- bytes other than zero padding follow the operands -/
  | trailingBytes
deriving DecidableEq, Repr

/-! ## Byte order (R64, R65, R100 to R102) -/

def lowByte (v : BitVec 16) : Byte := v.setWidth 8
def highByte (v : BitVec 16) : Byte := v.extractLsb' 8 8

/-- `{hi, lo}`: the 16-bit value whose low byte comes first on the wire (R100, R102). -/
def word16 (lo hi : Byte) : BitVec 16 := hi ++ lo

/-- The 16 command bits of a wire frame: the response flag is bit 15 (R92). -/
def commandWord (response : Bool) (command : BitVec 15) : BitVec 16 := BitVec.ofBool response ++ command

/-- `n` bytes of `v`, the least significant first. -/
def leBytes : Nat → Nat → Bytes
  | 0, _ => []
  | n + 1, v => BitVec.ofNat 8 v :: leBytes n (v / 256)

/-! ## Readers -/

def readByte : Bytes → Except DecodeError (Byte × Bytes)
  | [] => .error .truncated
  | b :: rest => .ok (b, rest)

/-- An `n`-byte little-endian number. -/
def readNat : Nat → Bytes → Except DecodeError (Nat × Bytes)
  | 0, rest => .ok (0, rest)
  | _ + 1, [] => .error .truncated
  | n + 1, b :: rest => do
    let (v, rest) ← readNat n rest
    .ok (b.toNat + 256 * v, rest)

/-- A `w`-bit operand in `n` bytes. -/
def readBits (w n : Nat) (bs : Bytes) : Except DecodeError (BitVec w × Bytes) := do
  let (v, rest) ← readNat n bs
  .ok (BitVec.ofNat w v, rest)

/-- A time operand: 32 bits in four bytes. -/
def readTime (bs : Bytes) : Except DecodeError (Time × Bytes) := readBits 32 4 bs

/-- A parameter ID: 16 bits in two bytes. -/
def readId (bs : Bytes) : Except DecodeError (ParamId × Bytes) := readBits 16 2 bs

def readBool (bs : Bytes) : Except DecodeError (Bool × Bytes) := do
  let (b, rest) ← readByte bs
  if b = 0 then .ok (false, rest) else if b = 1 then .ok (true, rest) else .error (.badBool b)

/-- The next `n` elements, each read by `rd`. -/
def readMany {α : Type} (rd : Bytes → Except DecodeError (α × Bytes)) :
    Nat → Bytes → Except DecodeError (List α × Bytes)
  | 0, rest => .ok ([], rest)
  | n + 1, bs => do
    let (a, rest) ← rd bs
    let (as, rest) ← readMany rd n rest
    .ok (a :: as, rest)

/-- A list preceded by its length in four bytes. -/
def readList {α : Type} (rd : Bytes → Except DecodeError (α × Bytes)) (bs : Bytes) :
    Except DecodeError (List α × Bytes) := do
  let (n, rest) ← readNat 4 bs
  readMany rd n rest

/-- A byte sequence preceded by its length in four bytes. -/
def readBytes (bs : Bytes) : Except DecodeError (Bytes × Bytes) := readList readByte bs

def readUpdate (bs : Bytes) : Except DecodeError (Update × Bytes) := do
  let (id, rest) ← readId bs
  let (n, rest) ← readByte rest
  let (bytes, rest) ← readMany readByte n.toNat rest
  .ok (⟨id, bytes⟩, rest)

def readUpdates (bs : Bytes) : Except DecodeError (List Update × Bytes) := readList readUpdate bs

def readCause (bs : Bytes) : Except DecodeError (Cause × Bytes) := do
  let (b, rest) ← readByte bs
  if b = 0 then .ok (.marker, rest) else if b = 1 then .ok (.retryExhausted, rest) else .error (.badCause b)

/-- CS_SET's field, then a value of its width (R245). -/
def readCsWrite (bs : Bytes) : Except DecodeError (CsWrite × Bytes) := do
  let (b, rest) ← readByte bs
  if b = 0 then
    let (v, rest) ← readBits 24 3 rest
    .ok (.sessionId v, rest)
  else if b = 1 then
    let (v, rest) ← readTime rest
    .ok (.lastPingTime v, rest)
  else if b = 2 then
    let (v, rest) ← readTime rest
    .ok (.lastPollTime v, rest)
  else .error (.badField b)

/-! ## Operations (R110, R111) -/

/-- The operands of the client operation with index `op`. DESIGN CHOICE: the position `k` of REG_AT takes four bytes; the
spec gives it no width (R110 says "index", R208; log 6). -/
def readClientOperands (op : Byte) (bs : Bytes) : Except DecodeError (ClientOp × Bytes) :=
  match op.toNat with
  | 0x04 => .ok (.fields, bs)
  | 0x20 => do
    let (command, bs) ← readBits 16 2 bs
    let (payload, bs) ← readBytes bs
    let (posted, bs) ← readBool bs
    let (now, bs) ← readTime bs
    .ok (.send command payload posted now, bs)
  | 0x21 => do
    let (counter, bs) ← readByte bs
    let (command, bs) ← readBits 16 2 bs
    let (payload, bs) ← readBytes bs
    let (now, bs) ← readTime bs
    .ok (.sendReply counter command payload now, bs)
  | 0x30 => .ok (.regClear, bs)
  | 0x31 => do
    let (id, bs) ← readId bs
    let (tag, bs) ← readByte bs
    let (size, bs) ← readByte bs
    .ok (.regDefine id tag size, bs)
  | 0x32 => do
    let (id, bs) ← readId bs
    .ok (.regGet id, bs)
  | 0x33 => do
    let (updates, bs) ← readUpdates bs
    .ok (.regQueue updates, bs)
  | 0x34 => do
    let (updates, bs) ← readUpdates bs
    .ok (.regApply updates, bs)
  | 0x35 => .ok (.regFlush, bs)
  | 0x36 => do
    let (block, bs) ← readBytes bs
    .ok (.regParse block, bs)
  | 0x37 => do
    let (id, bs) ← readId bs
    .ok (.regInfo id, bs)
  | 0x38 => do
    let (k, bs) ← readNat 4 bs
    .ok (.regAt k, bs)
  | 0x41 => do
    let (w, bs) ← readCsWrite bs
    .ok (.csSet w, bs)
  | _ => .error (.noSuchOperation op)

/-- One client operation, index first. -/
def readClientOp (bs : Bytes) : Except DecodeError (ClientOp × Bytes) := do
  let (op, bs) ← readByte bs
  readClientOperands op bs

/-- The operands of the operation with index `op`; every index outside R110's table is refused (R111). -/
def readOperands (op : Byte) (bs : Bytes) : Except DecodeError (Instr × Bytes) :=
  match op.toNat with
  | 0x01 => do
    let (s, bs) ← readBytes bs
    .ok (.cksum s, bs)
  | 0x02 => do
    let (counter, bs) ← readByte bs
    let (command, bs) ← readBits 16 2 bs
    let (payload, bs) ← readBytes bs
    .ok (.encode counter command payload, bs)
  | 0x03 => do
    let (f, bs) ← readBytes bs
    .ok (.verify f, bs)
  | 0x10 => do
    let (b, bs) ← readByte bs
    let (now, bs) ← readTime bs
    .ok (.rxByte b now, bs)
  | 0x11 => do
    let (times, bs) ← readList readTime bs
    .ok (.rxDrain times, bs)
  | 0x12 => .ok (.rxRelease, bs)
  | 0x22 => do
    let (now, bs) ← readTime bs
    .ok (.txPoll now, bs)
  | 0x23 => do
    let (cause, bs) ← readCause bs
    .ok (.resync cause, bs)
  | 0x40 => do
    let (drainTimes, bs) ← readList readTime bs
    let (pollTime, bs) ← readTime bs
    let (stepC, bs) ← readList readClientOp bs
    let (stepD, bs) ← readList readClientOp bs
    .ok (.tick drainTimes pollTime stepC stepD, bs)
  | _ => do
    let (o, bs) ← readClientOperands op bs
    .ok (o.toInstr, bs)

/-- One operation, index first. -/
def readOp (bs : Bytes) : Except DecodeError (Instr × Bytes) := do
  let (op, bs) ← readByte bs
  readOperands op bs

/-! ## Received bytes (R142 to R146): "the one place where FCB decodes by bit pattern" -/

/-- `elapsed(now, t) = (now - t) mod 2^W_TIME` (R13, R248). -/
def elapsed (now t : Time) : Time := now - t

/-- The gap check of R142: only in ACCUM, and strict ("exceeds"). -/
def gapFires (c : Config.Params) (rx : RxContext) (now : Time) : Bool :=
  match rx.state with
  | .idle => false
  | .accum => decide (c.tInterbyte.toNat < (elapsed now rx.lastTime).toNat)

/-- The receiver's state after the gap check (R142). -/
def stateAfterGap (c : Config.Params) (rx : RxContext) (now : Time) : RxState :=
  if gapFires c rx now then .idle else rx.state

/-- The four rows a received byte can fall under. -/
inductive RxClass where
  | start
  | resync
  | noise
  | data
deriving DecidableEq, Repr

/-- The row of a byte met in the receiver state `st` (R143 to R146). -/
def classify (c : Config.Params) (st : RxState) (b : Byte) : RxClass :=
  match st with
  | .accum => .data
  | .idle => if b = c.startMarker then .start else if b = c.resyncMarker then .resync else .noise

/-- The instruction of a byte in class `k`. -/
def RxClass.toInstr (k : RxClass) (b : Byte) (now : Time) : Instr :=
  match k with
  | .start => .rxStart b now
  | .resync => .rxResync b now
  | .noise => .rxNoise b now
  | .data => .rxData b now

/-- A received byte with its time; which row it is depends on the receiver (R141). -/
def readRxByte (c : Config.Params) (rx : RxContext) (bs : Bytes) : Except DecodeError (Instr × Bytes) := do
  let (b, bs) ← readByte bs
  let (now, bs) ← readTime bs
  .ok ((classify c (stateAfterGap c rx now) b).toInstr b now, bs)

/-! ## Wire formats (R90, R92, R96, R97) -/

/-- A frame: START_MARKER, counter, command low byte first, dummy, length 0 to 250, payload, checksum (R90). -/
def readFrame (c : Config.Params) (bs : Bytes) : Except DecodeError (Instr × Bytes) := do
  let (marker, bs) ← readByte bs
  if marker ≠ c.startMarker then .error (.notAFrame marker) else
  let (seq, bs) ← readByte bs
  let (lo, bs) ← readByte bs
  let (hi, bs) ← readByte bs
  let (dummy, bs) ← readByte bs
  let (len, bs) ← readByte bs
  if Config.maxPayload < len.toNat then .error (.frameLength len) else
  let (payload, bs) ← readMany readByte len.toNat bs
  let (ck, bs) ← readByte bs
  let (now, bs) ← readTime bs
  let command := (word16 lo hi).setWidth 15
  if hi.msb then .ok (.frameRsp seq command dummy payload ck now, bs)
  else .ok (.frameReq seq command dummy payload ck now, bs)

def readResync (c : Config.Params) (bs : Bytes) : Except DecodeError (Instr × Bytes) := do
  let (marker, bs) ← readByte bs
  if marker ≠ c.resyncMarker then .error (.notResync marker) else
  let (now, bs) ← readTime bs
  .ok (.resyncByte now, bs)

/-- `id = {t[1], t[0]}; tlen = t[2]; tbytes = t[3 .. 2+tlen]` (R102). -/
def readTriple (bs : Bytes) : Except DecodeError (Instr × Bytes) := do
  let (lo, bs) ← readByte bs
  let (hi, bs) ← readByte bs
  let (tlen, bs) ← readByte bs
  let (tbytes, bs) ← readMany readByte tlen.toNat bs
  .ok (.triple (word16 lo hi) tbytes, bs)

/-! ## Decoding a packet -/

/-- The instruction at the head of the packet and the bytes after it. -/
def readPacket (c : Config.Params) (rx : RxContext) (p : Packet) : Except DecodeError (Instr × Bytes) :=
  match p.fmt with
  | .op => readOp p.bytes
  | .rxByte => readRxByte c rx p.bytes
  | .frame => readFrame c p.bytes
  | .resync => readResync c p.bytes
  | .triple => readTriple p.bytes

/-- The instruction a packet stands for, under the parameters `c` and in the receiver context `rx`. A packet
may be padded with zero bytes (log 6). -/
def decode (c : Config.Params) (rx : RxContext) (p : Packet) : Except DecodeError Instr := do
  let (i, rest) ← readPacket c rx p
  if rest.all (fun b => b == 0) then .ok i else .error .trailingBytes

/-! ## Encoding -/

def encBool (b : Bool) : Byte := if b then 1 else 0

def encTime (t : Time) : Bytes := leBytes 4 t.toNat

def encId (id : ParamId) : Bytes := leBytes 2 id.toNat

def encList {α : Type} (enc : α → Bytes) (xs : List α) : Bytes := leBytes 4 xs.length ++ xs.flatMap enc

def encBytes (bs : Bytes) : Bytes := encList (fun b => [b]) bs

def encUpdate (u : Update) : Bytes := encId u.id ++ [BitVec.ofNat 8 u.bytes.length] ++ u.bytes

def encUpdates (us : List Update) : Bytes := encList encUpdate us

def encCause : Cause → Byte
  | .marker => 0
  | .retryExhausted => 1

def encCsWrite : CsWrite → Bytes
  | .sessionId v => 0 :: leBytes 3 v.toNat
  | .lastPingTime v => 1 :: encTime v
  | .lastPollTime v => 2 :: encTime v

/-- A client operation: its index (R110), then its operands. -/
def encClientOp : ClientOp → Bytes
  | .fields => [0x04]
  | .send command payload posted now =>
      0x20 :: (leBytes 2 command.toNat ++ encBytes payload ++ [encBool posted] ++ encTime now)
  | .sendReply counter command payload now =>
      0x21 :: counter :: (leBytes 2 command.toNat ++ encBytes payload ++ encTime now)
  | .regClear => [0x30]
  | .regDefine id tag size => 0x31 :: (encId id ++ [tag, size])
  | .regGet id => 0x32 :: encId id
  | .regQueue updates => 0x33 :: encUpdates updates
  | .regApply updates => 0x34 :: encUpdates updates
  | .regFlush => [0x35]
  | .regParse block => 0x36 :: encBytes block
  | .regInfo id => 0x37 :: encId id
  | .regAt k => 0x38 :: leBytes 4 k
  | .csSet w => 0x41 :: encCsWrite w

/-- The bytes of a frame on the wire (R90, R101). -/
def frameBytes (marker seq : Byte) (command : BitVec 16) (dummy : Byte) (payload : Bytes) (ck : Byte) : Bytes :=
  [marker, seq, lowByte command, highByte command, dummy, BitVec.ofNat 8 payload.length] ++ payload ++ [ck]

/-- The bytes of a triple inside a parameter block (R97). -/
def tripleBytes (id : ParamId) (tbytes : Bytes) : Bytes :=
  [lowByte id, highByte id, BitVec.ofNat 8 tbytes.length] ++ tbytes

/-- The packet of a well-formed instruction. -/
def encode (c : Config.Params) : Instr → Packet
  | .cksum s => ⟨.op, 0x01 :: encBytes s⟩
  | .encode counter command payload => ⟨.op, 0x02 :: counter :: (leBytes 2 command.toNat ++ encBytes payload)⟩
  | .verify f => ⟨.op, 0x03 :: encBytes f⟩
  | .fields => ⟨.op, encClientOp .fields⟩
  | .rxByte b now => ⟨.op, 0x10 :: b :: encTime now⟩
  | .rxDrain times => ⟨.op, 0x11 :: encList encTime times⟩
  | .rxRelease => ⟨.op, [0x12]⟩
  | .send command payload posted now => ⟨.op, encClientOp (.send command payload posted now)⟩
  | .sendReply counter command payload now => ⟨.op, encClientOp (.sendReply counter command payload now)⟩
  | .txPoll now => ⟨.op, 0x22 :: encTime now⟩
  | .resync cause => ⟨.op, [0x23, encCause cause]⟩
  | .regClear => ⟨.op, encClientOp .regClear⟩
  | .regDefine id tag size => ⟨.op, encClientOp (.regDefine id tag size)⟩
  | .regGet id => ⟨.op, encClientOp (.regGet id)⟩
  | .regQueue updates => ⟨.op, encClientOp (.regQueue updates)⟩
  | .regApply updates => ⟨.op, encClientOp (.regApply updates)⟩
  | .regFlush => ⟨.op, encClientOp .regFlush⟩
  | .regParse block => ⟨.op, encClientOp (.regParse block)⟩
  | .regInfo id => ⟨.op, encClientOp (.regInfo id)⟩
  | .regAt k => ⟨.op, encClientOp (.regAt k)⟩
  | .tick drainTimes pollTime stepC stepD =>
      ⟨.op, 0x40 :: (encList encTime drainTimes ++ encTime pollTime ++ encList encClientOp stepC ++
        encList encClientOp stepD)⟩
  | .csSet w => ⟨.op, encClientOp (.csSet w)⟩
  | .rxStart b now => ⟨.rxByte, b :: encTime now⟩
  | .rxResync b now => ⟨.rxByte, b :: encTime now⟩
  | .rxNoise b now => ⟨.rxByte, b :: encTime now⟩
  | .rxData b now => ⟨.rxByte, b :: encTime now⟩
  | .frameReq seq command dummy payload ck now =>
      ⟨.frame, frameBytes c.startMarker seq (commandWord false command) dummy payload ck ++ encTime now⟩
  | .frameRsp seq command dummy payload ck now =>
      ⟨.frame, frameBytes c.startMarker seq (commandWord true command) dummy payload ck ++ encTime now⟩
  | .resyncByte now => ⟨.resync, c.resyncMarker :: encTime now⟩
  | .triple id tbytes => ⟨.triple, tripleBytes id tbytes⟩

/-! ## The opcode table's words -/

/-- Zero bytes after a table word: "every bit above nbits is 0", up to the longest frame or triple. -/
def tablePadding : Bytes := List.replicate 264 0

/-- The indices R110 assigns. -/
def assignedOp (w : Nat) : Bool :=
  decide (w ∈ [0x01, 0x02, 0x03, 0x04, 0x10, 0x11, 0x12, 0x20, 0x21, 0x22, 0x23,
    0x30, 0x31, 0x32, 0x33, 0x34, 0x35, 0x36, 0x37, 0x38, 0x40, 0x41])

/-- The packet of a word of spec/opcode_table.json, whose rows are told apart by their width (log 18): 8 bits
are an operation index if R110 assigns it and a received byte otherwise; 24 bits are a triple header; 48 bits
are a frame header, read as its rows number it ("byte 0 most significant", R110) and, where that byte is not
START_MARKER, with byte 0 least significant. DESIGN CHOICE: byte 0 of a triple header (`id_lo`) is the least significant
byte of the 24-bit word; R97 gives the offsets of its three bytes and R110 an order for the 48-bit header only. -/
def tablePacket (c : Config.Params) (nbits w : Nat) : Packet :=
  let bytes := leBytes (nbits / 8) w
  if nbits = 48 then
    if bytes.reverse.head? = some c.startMarker then ⟨.frame, bytes.reverse ++ tablePadding⟩
    else ⟨.frame, bytes ++ tablePadding⟩
  else if nbits = 24 then ⟨.triple, bytes ++ tablePadding⟩
  else if nbits = 8 && !assignedOp w then ⟨.rxByte, bytes ++ tablePadding⟩
  else ⟨.op, bytes ++ tablePadding⟩

/-- The receiver at cold start. -/
def coldRx : RxContext := ⟨.idle, 0⟩

/-- The instruction the decoder reads from a word of the opcode table, under REF and with an idle receiver. -/
def decodeTableWord (nbits w : Nat) : Option Instr :=
  match decode Config.Params.ref coldRx (tablePacket Config.Params.ref nbits w) with
  | .ok i => some i
  | .error _ => none

end Sys2Proof
end

