-- ==== Sys2Proof/Machine/State.lean ====
section
/-! DEFINITION. The machine's state as plain data (spec/10_state.md), its outcomes, and cold start (R50). -/

namespace Sys2Proof.Machine

/-- One of the three byte buffers (R20, R60): its bytes by index 0 .. CAP-1, in canonical form (`Memory.wf`): indices
strictly rising, no entry equal to what an unlisted index reads as (`Memory.unlisted`, log 3). -/
abbrev Memory := List Host.Cell

/-- What an index of a buffer that is not listed reads as. DESIGN CHOICE (log 3): the spec gives none (R24, R50). -/
abbrev Memory.unlisted : Byte := 0

/-- An integer 0 .. CAP, the type of `rx_count`, `pend_len` and `last_len` (R23, R31, R36). -/
abbrev Count := Fin (Config.cap + 1)

/-- A registry entry (R43). `value` is meaningful only when `valued`; it is empty before (log 17). -/
structure RegEntry where
  id     : ParamId
  tag    : Byte
  size   : Byte
  valued : Bool
  value  : Bytes
deriving DecidableEq, Repr

/-- An event raised to the FSM (R47, R271). -/
inductive Event where
  | resync (cause : Cause)
deriving DecidableEq, Repr

/-- Why REG_GET found no value (R207). -/
inductive MissReason where
  | notFound
  | unvalued
deriving DecidableEq, Repr

/-- A diagnostic with what R261's "records" column says it carries. -/
inductive Diag where
  | noise          (b : Byte)
  | gap            (rxCount : Nat)
  | oversize       (len : Byte)
  | cksum          (expected got : Byte)
  | timeout        (retryCount : BitVec 8)
  | encodeOverflow (payloadLen : Nat)
  | regMiss        (id : ParamId) (reason : MissReason)
  | regUnknownId   (id : ParamId)
  | regSize        (id : ParamId) (given : Nat) (declared : Byte)
  | regTrunc       (offset : Nat)
  | regDup         (id : ParamId)
  | regFull        (id : ParamId)
deriving DecidableEq, Repr

/-- The record FIELDS returns (R128). -/
structure FrameRecord where
  seq        : Byte
  command    : BitVec 16
  isResponse : Bool
  dummy      : Byte
  len        : Byte
  payload    : Bytes
  cksum      : Byte
  raw        : Bytes
deriving DecidableEq, Repr

/-- What an operation returns (the "result" column of R110) or that it ended with fault ENCODE_OVERFLOW (R263). -/
inductive Result where
  /-- CKSUM -/
  | byte (b : Byte)
  /-- ENCODE -/
  | frame (f : Bytes)
  /-- ENCODE: FAIL -/
  | encodeFail
  /-- VERIFY, REG_DEFINE -/
  | bool (b : Bool)
  /-- FIELDS -/
  | fields (r : FrameRecord)
  /-- REG_GET -/
  | bytes (bs : Bytes)
  /-- REG_INFO -/
  | info (tag size : Byte) (valued : Bool)
  /-- REG_AT -/
  | entry (id : ParamId) (tag size : Byte) (valued : Bool)
  /-- FIELDS, REG_INFO, REG_AT: NONE -/
  | absent
  /-- REG_APPLY, REG_FLUSH: OK(list) -/
  | ok (applied : List Update)
  /-- REG_APPLY, REG_FLUSH: REJECT -/
  | reject
  /-- REG_FLUSH: NOTHING -/
  | nothing
  /-- REG_PARSE: the count applied -/
  | count (n : Nat)
  /-- SEND, SEND_REPLY: the operation ended with fault ENCODE_OVERFLOW -/
  | encodeOverflow
deriving DecidableEq, Repr

/-- Everything the spec gives FCB (R22 to R47), then the model's own fields (INVENTORY.md). -/
structure State where
  -- receiver
  /-- R22 -/
  rxState      : RxState
  /-- R23 -/
  rxCount      : Count
  /-- R24 -/
  rxBuf        : Memory
  /-- R25 -/
  rxLastTime   : Time
  -- pending-frame latch
  /-- R30 -/
  framePending : Bool
  /-- R31 -/
  pendLen      : Count
  /-- R31 -/
  pendBuf      : Memory
  -- connection state
  /-- R35 -/
  txCounter    : Byte
  /-- R36 -/
  lastLen      : Count
  /-- R36 -/
  lastBuf      : Memory
  /-- R37 -/
  lastTxTime   : Time
  /-- R38 -/
  retryCount   : BitVec 8
  /-- R39 -/
  awaiting     : Bool
  /-- R40 -/
  sessionId    : BitVec 24
  /-- R41 -/
  lastPingTime : Time
  /-- R41 -/
  lastPollTime : Time
  -- parameter registry
  /-- R42, R43: the entries in definition order; reg_n is their number -/
  reg          : List RegEntry
  /-- R44 -/
  batchValid   : Bool
  /-- R44 -/
  batch        : List Update
  /-- R45: fault[0], ENCODE_OVERFLOW, sticky -/
  fault        : Bool
  -- output traces
  /-- R47: what `write_bytes` was given -/
  txOut        : List Bytes
  /-- R47 -/
  evOut        : List Event
  /-- R47, R262 -/
  diagOut      : List Diag
  -- the model's own
  /-- the parameters of R10, constant (log 1) -/
  cfg          : Config.Params
  /-- what waits at the command port and on the line (log 5) -/
  input        : List Input
  /-- bytes waiting in the serial transport (R286, log 8) -/
  rxQueue      : Bytes
  /-- the result port (R287, log 11) -/
  resOut       : List Result
deriving DecidableEq, Repr

/-- `reg_n` (R42). -/
def State.regN (s : State) : Nat := s.reg.length

/-- What the classification of a received byte reads. -/
def State.rxContext (s : State) : RxContext := ⟨s.rxState, s.rxLastTime⟩

/-- Cold start under the parameters `c` (R50, R300). The bytes of the buffers and the two timestamps that R50
leaves unspecified are 0 (log 2). DESIGN CHOICE: the serial transport starts with no byte waiting; the spec gives its
content none, since it is the peer's and not FCB's (R8; log 8). -/
def State.coldStart (c : Config.Params) : State where
  rxState := .idle
  rxCount := 0
  rxBuf := []
  rxLastTime := 0
  framePending := false
  pendLen := 0
  pendBuf := []
  txCounter := c.seqSentinel
  lastLen := 0
  lastBuf := []
  lastTxTime := 0
  retryCount := 0
  awaiting := false
  sessionId := 0
  lastPingTime := 0
  lastPollTime := 0
  reg := []
  batchValid := false
  batch := []
  fault := false
  txOut := []
  evOut := []
  diagOut := []
  cfg := c
  input := []
  rxQueue := []
  resOut := []

/-- Cold start under REF (R16, log 1). -/
def State.reset : State := State.coldStart Config.Params.ref

/-- Why the machine stops with a fault. -/
inductive Fault where
  /-- RX_BYTE would store at index CAP of `rx_buf`, which does not exist (R13: "never issued otherwise"; R146: "The
  index is always below `CAP`"). Raised by the accumulating byte of RX_BYTE, RX.DATA, RX_DRAIN, TICK and the wire
  messages, only in states no run reaches. Safe. -/
  | bufferOverrun
deriving DecidableEq, Repr

/-- Why an instruction has no meaning where it stands ("refuse", R13). -/
inductive Refusal where
  /-- raised by exec for an instruction that has no meaning yet; safe -/
  | notModelled (mnemonic : String)
  /-- raised by RX_BYTE and the RX.* cases while a frame is pending (R152); safe -/
  | rxWhileFramePending
  /-- raised by RX_BYTE and the RX.* cases for a byte that would overtake the bytes waiting in the transport (R247: "the
  model gives such a call no move or a refusal"; log 8); safe -/
  | rxOutOfStreamOrder
  /-- raised by an RX.* case in a receiver state, or for a byte, that its row's condition excludes (log 13); safe -/
  | rxCaseDoesNotApply
  /-- raised by RESYNC selected by the client (R192); safe -/
  | resyncByClient
  /-- raised by the step (`execMalformed`) for an operation packet whose index names no operation (R111), whose field
  CS_SET does not have (R245) or whose operands are not there (log 6), for a received byte without its time, and for a
  message of fewer bytes than its time has (log 7); safe -/
  | undecodable (e : DecodeError)
deriving DecidableEq, Repr

/-- The outcome of an operation of this machine. -/
abbrev Outcome := Host.Outcome State Fault Refusal

end Sys2Proof.Machine
end

