-- ==== Sys2Proof/Machine/Ops.lean ====
section
/-! DEFINITION. The named operations over the buffers, the traces and the connection state that the meanings share,
with the resynchronization reset (the counterpart of taking an exception, spec/60_exceptions.md R275) and the raise of
ENCODE_OVERFLOW (R263). There is no return operation (R278). -/

namespace Sys2Proof.Machine

/-! ## Buffers (R60 to R62) -/

/-- The byte at index `i`. -/
def Memory.read (m : Memory) (i : Nat) : Byte :=
  match m with
  | [] => Memory.unlisted
  | (a, b) :: rest => if a = i then b else Memory.read rest i

/-- Store one byte, keeping the canonical form. -/
def Memory.write (m : Memory) (i : Nat) (v : Byte) : Memory :=
  match m with
  | [] => if v = Memory.unlisted then [] else [(i, v)]
  | (a, b) :: rest =>
    if a < i then (a, b) :: Memory.write rest i v
    else if a = i then (if v = Memory.unlisted then rest else (i, v) :: rest)
    else if v = Memory.unlisted then (a, b) :: rest
    else (i, v) :: (a, b) :: rest

/-- `MemRead(buf, i, n)` (R13). -/
def Memory.slice (m : Memory) (i n : Nat) : Bytes :=
  match n with
  | 0 => []
  | n + 1 => m.read i :: Memory.slice m (i + 1) n

/-- `MemWrite(buf, i, n, v)` with `v` the `n` bytes of the list (R13). -/
def Memory.store (m : Memory) (i : Nat) (bs : Bytes) : Memory :=
  match bs with
  | [] => m
  | b :: rest => Memory.store (m.write i b) (i + 1) rest

/-- Indices strictly rise from `lo` on. -/
def Memory.risingFrom (lo : Nat) : Memory → Bool
  | [] => true
  | (a, _) :: rest => decide (lo ≤ a) && Memory.risingFrom (a + 1) rest

/-- The canonical form, within the buffer's CAP indices. -/
def Memory.wf (m : Memory) : Bool :=
  Memory.risingFrom 0 m && m.all (fun cell => cell.2 != Memory.unlisted && decide (cell.1 < Config.cap))

/-- A number of bytes as a count; a number above CAP is never passed. -/
def Count.ofNat (n : Nat) : Count := ⟨min n Config.cap, Nat.lt_succ_of_le (Nat.min_le_right _ _)⟩

/-! ## Outputs (R47) -/

/-- `diag E(args)`. -/
def State.diag (s : State) (d : Diag) : State := { s with diagOut := s.diagOut ++ [d] }

/-- `emit E(args)`. -/
def State.emit (s : State) (e : Event) : State := { s with evOut := s.evOut ++ [e] }

/-- The operation returns `r` (log 11). -/
def State.result (s : State) (r : Result) : State := { s with resOut := s.resOut ++ [r] }

/-- `write_bytes(f)`: one call, one whole frame (R68). -/
def State.writeOut (s : State) (f : Bytes) : State := { s with txOut := s.txOut ++ [f] }

/-! ## Receiver -/

/-- "Reset the receiver" (R140): the state and the count, nothing else. -/
def State.receiverReset (s : State) : State := { s with rxState := .idle, rxCount := 0 }

/-- The byte may be fed next: it is the oldest that waits in the transport, or none waits (R247, log 8). -/
def State.inStreamOrder (s : State) (b : Byte) : Bool :=
  match s.rxQueue with
  | [] => true
  | oldest :: _ => oldest == b

/-- The effect of `read_byte()`: it removes the oldest waiting byte (R68, R286). -/
def State.takeByte (s : State) : State := { s with rxQueue := s.rxQueue.tail }

/-! ## Connection state -/

/-- `RESYNC(cause)`: the resynchronization reset and its event (R190, R191). Invoked from RX_BYTE and TX_POLL only. -/
def State.resync (s : State) (cause : Cause) : State :=
  { s with
    txCounter := s.cfg.seqSentinel
    lastLen := 0
    retryCount := 0
    awaiting := false
    framePending := false
    sessionId := 0
    lastPingTime := 0
    lastPollTime := 0
    evOut := s.evOut ++ [.resync cause] }

/-- `raise ENCODE_OVERFLOW` for a payload of `n` bytes (R172, R177, R263). -/
def State.raiseEncodeOverflow (s : State) (n : Nat) : State :=
  { s with
    fault := true
    diagOut := s.diagOut ++ [.encodeOverflow n]
    resOut := s.resOut ++ [.encodeOverflow] }

/-- Transmit the frame `f` and record it for retransmission (R171, R176). -/
def State.transmit (s : State) (f : Bytes) (now : Time) : State :=
  { s with
    txOut := s.txOut ++ [f]
    lastBuf := s.lastBuf.store 0 f
    lastLen := Count.ofNat f.length
    lastTxTime := now }

/-- A request is outstanding and none of its retransmissions has happened (R171, R176). -/
def State.expectResponse (s : State) : State := { s with retryCount := 0, awaiting := true }

/-! ## Sequencing -/

/-- Go on with `f` unless the operation stopped. -/
def andThen (o : Outcome) (f : State → Outcome) : Outcome :=
  match o with
  | .next s => f s
  | .fault r => .fault r
  | .refused r => .refused r

/-! ## Condition codes (the "code" column of R261) -/

def Diag.code : Diag → Byte
  | .noise _ => 0x01
  | .gap _ => 0x02
  | .oversize _ => 0x03
  | .cksum _ _ => 0x04
  | .timeout _ => 0x10
  | .encodeOverflow _ => 0x20
  | .regMiss _ _ => 0x30
  | .regUnknownId _ => 0x31
  | .regSize _ _ _ => 0x32
  | .regTrunc _ => 0x33
  | .regDup _ => 0x34
  | .regFull _ => 0x35

def Event.code : Event → Byte
  | .resync .marker => 0x11
  | .resync .retryExhausted => 0x12

end Sys2Proof.Machine
end

