-- ==== Sys2Proof/Machine/Operands.lean ====
section
/-! DEFINITION. The operand forms: the checksum, the frame's fields, its assembly and its check (spec/30_encoding.md
R100 to R102, spec/40_codec.md R120 to R128), the registry lookup (spec/20_memory.md R66). -/

namespace Sys2Proof.Machine

/-- The sum of the bytes as unsigned numbers, not yet reduced (R120). -/
def byteSum : Bytes → Nat
  | [] => 0
  | b :: rest => b.toNat + byteSum rest

/-- `CKSUM(s) = (256 - sum) mod 256` with the sum reduced modulo 256 (R121). -/
def cksum (s : Bytes) : Byte := BitVec.ofNat 8 (256 - byteSum s % 256)

/-- The byte at frame offset `i`. -/
def frameByte (f : Bytes) (i : Nat) : Byte := f.getD i 0

/-- `total = len + 7`, computed without wrap (R100). -/
def frameTotal (lenByte : Byte) : Nat := lenByte.toNat + 7

/-- The header `ENCODE` writes for an `n`-byte payload (R101). -/
def frameHeader (c : Config.Params) (counter : Byte) (command : BitVec 16) (n : Nat) : Bytes :=
  [c.startMarker, counter, lowByte command, highByte command, c.dummyTx, BitVec.ofNat 8 n]

/-- `ENCODE(counter, command, payload)`; `none` is FAIL (R123). -/
def encodeFrame (c : Config.Params) (counter : Byte) (command : BitVec 16) (payload : Bytes) : Option Bytes :=
  if Config.cap < payload.length + 7 then none
  else
    let body := frameHeader c counter command payload.length ++ payload
    some (body ++ [cksum body])

/-- `VERIFY(f)` (R126). -/
def verifyFrame (f : Bytes) : Bool :=
  if f.length < 7 then false
  else if f.length ≠ frameTotal (frameByte f 5) then false
  else cksum (f.take (f.length - 1)) == frameByte f (f.length - 1)

/-- The record of a frame (R100, R128). -/
def frameRecord (f : Bytes) : FrameRecord where
  seq := frameByte f 1
  command := word16 (frameByte f 2) (frameByte f 3)
  isResponse := (frameByte f 3).msb
  dummy := frameByte f 4
  len := frameByte f 5
  payload := (f.drop 6).take (frameByte f 5).toNat
  cksum := frameByte f (f.length - 1)
  raw := f

/-- The pending frame, `pend_buf[0 .. pend_len-1]` (R128). -/
def State.pendingFrame (s : State) : Bytes := s.pendBuf.slice 0 s.pendLen

/-- The recorded frame, `last_buf[0 .. last_len-1]` (R180). -/
def State.lastFrame (s : State) : Bytes := s.lastBuf.slice 0 s.lastLen

/-- `lookup(id)`: the least index with that ID (R66). -/
def lookup (reg : List RegEntry) (id : ParamId) : Option Nat :=
  match reg with
  | [] => none
  | e :: rest => if e.id = id then some 0 else (lookup rest id).map (· + 1)

end Sys2Proof.Machine
end

