-- ==== Sys2Proof/Machine/Flags.lean ====
section
/-! DEFINITION. The computations of the status flags (spec/10_state.md R48) and of the two timeouts (spec/60_exceptions.md
R282). -/

namespace Sys2Proof.Machine

/-- `awaiting` after a valid frame whose command high byte is `cmdHi`: cleared by the response flag, else kept (R150). -/
def awaitingAfterFrame (awaiting : Bool) (cmdHi : Byte) : Bool := if cmdHi.msb then false else awaiting

/-- `batch_valid` after REG_QUEUE: `len(updates) > 0` (R211). -/
def batchValidOf (updates : List Update) : Bool := decide (0 < updates.length)

/-- The inter-byte timeout at `now` (R142, R282). -/
def State.interByteTimeout (s : State) (now : Time) : Bool := gapFires s.cfg s.rxContext now

/-- The response timeout at `now`: awaiting, and strictly more than T_RESPONSE since the last transmission (R180). -/
def State.responseTimeout (s : State) (now : Time) : Bool :=
  s.awaiting && decide (s.cfg.tResponse.toNat < (elapsed now s.lastTxTime).toNat)

/-- An entry with a value written: `value <- v; valued <- 1` (R215, R225). -/
def RegEntry.setValue (e : RegEntry) (v : Bytes) : RegEntry := { e with value := v, valued := true }

end Sys2Proof.Machine
end

