-- ==== Sys2Proof/Machine/Codec.lean ====
section
/-! DEFINITION. The frame codec's operations (spec/40_codec.md): pure, each returns one result. -/

namespace Sys2Proof.Machine

/-- CKSUM (R121). -/
def execCksum (bytes : Bytes) (s : State) : Outcome := .next (s.result (.byte (cksum bytes)))

/-- ENCODE (R123). -/
def execEncode (counter : Byte) (command : BitVec 16) (payload : Bytes) (s : State) : Outcome :=
  match encodeFrame s.cfg counter command payload with
  | some f => .next (s.result (.frame f))
  | none => .next (s.result .encodeFail)

/-- VERIFY (R126). -/
def execVerify (f : Bytes) (s : State) : Outcome := .next (s.result (.bool (verifyFrame f)))

/-- FIELDS returns the pending frame's record and clears nothing (R128). -/
def fields (s : State) : State :=
  if s.framePending then s.result (.fields (frameRecord s.pendingFrame)) else s.result .absent

def execFields (s : State) : Outcome := .next (fields s)

end Sys2Proof.Machine
end

