-- ==== Sys2Proof/Machine/Receiver.lean ====
section
/-! DEFINITION. The receiver's operations (spec/41_receiver.md): RX_BYTE and its cases, RX_DRAIN, RX_RELEASE. -/

namespace Sys2Proof.Machine

/-- Step 1 of RX_BYTE: the gap check, then `rx_last_time <- now` (R142, R147). -/
def gapCheck (now : Time) (s : State) : State :=
  if s.interByteTimeout now then
    { (s.diag (.gap s.rxCount)).receiverReset with rxLastTime := now }
  else { s with rxLastTime := now }

/-- A start marker opens a frame (R143). -/
def openFrame (b : Byte) (s : State) : State :=
  { s with rxBuf := s.rxBuf.write 0 b, rxCount := 1, rxState := .accum }

/-- A byte that is neither marker is discarded (R145). -/
def dropNoise (b : Byte) (s : State) : State := s.diag (.noise b)

/-- Step 5 at the last byte of a frame: latch it, or discard it (R149, R150). -/
def completeFrame (s : State) : State :=
  let n : Nat := s.rxCount
  let expected := cksum (s.rxBuf.slice 0 (n - 1))
  let got := s.rxBuf.read (n - 1)
  if expected ≠ got then (s.diag (.cksum expected got)).receiverReset
  else
    State.receiverReset
      { s with
        pendBuf := s.pendBuf.store 0 (s.rxBuf.slice 0 n)
        pendLen := s.rxCount
        framePending := true
        awaiting := awaitingAfterFrame s.awaiting (s.rxBuf.read 3) }

/-- Steps 4 and 5 after a byte was appended: the length guard at the sixth byte (R148), then completion. -/
def afterAppend (s : State) : State :=
  let total := frameTotal (s.rxBuf.read 5)
  if (s.rxCount : Nat) = 6 ∧ Config.cap < total then (s.diag (.oversize (s.rxBuf.read 5))).receiverReset
  else if 7 ≤ (s.rxCount : Nat) ∧ (s.rxCount : Nat) = total then completeFrame s
  else s

/-- Step 3: append the byte at index `rx_count` (R146), then steps 4 and 5. Index CAP does not exist (log 4). -/
def accumulate (b : Byte) (s : State) : Outcome :=
  if h : (s.rxCount : Nat) < Config.cap then
    .next (afterAppend { s with
      rxBuf := s.rxBuf.write s.rxCount b
      rxCount := ⟨s.rxCount + 1, Nat.succ_lt_succ h⟩ })
  else .fault .bufferOverrun

/-- The row of the byte `b` after the gap check (R143 to R146). -/
def State.rxClass (s : State) (b : Byte) : RxClass := classify s.cfg s.rxState b

/-- RX_BYTE(b, now) (R141). -/
def rxByte (b : Byte) (now : Time) (s : State) : Outcome :=
  if s.framePending then .refused .rxWhileFramePending
  else
    let s := gapCheck now s
    match s.rxClass b with
    | .start => .next (openFrame b s)
    | .resync => .next (s.resync .marker)
    | .noise => .next (dropNoise b s)
    | .data => accumulate b s

/-- A byte that the client feeds directly is the next of the inbound stream (R140 "in stream order", R68 "exactly once"):
the oldest byte that waits in the transport, which feeding it takes away, or, when none waits, one that arrives now. A
byte that differs from the oldest waiting one would overtake it; R247 assumes that never ("feed a byte out of stream
order; feed a byte twice") and gives it a refusal (log 8). -/
def feedByte (b : Byte) (feed : State → Outcome) (s : State) : Outcome :=
  if s.framePending then .refused .rxWhileFramePending
  else if s.inStreamOrder b then feed s.takeByte
  else .refused .rxOutOfStreamOrder

def execRxByte (b : Byte) (now : Time) (s : State) : Outcome := feedByte b (rxByte b now) s

/-- A case of RX_BYTE as its table row has it: after the gap check its condition must hold, and then `arm` is its
effect (log 13). -/
def rxCase (k : RxClass) (b : Byte) (now : Time) (arm : State → Outcome) (s : State) : Outcome :=
  feedByte b (fun s =>
    if (gapCheck now s).rxClass b = k then arm (gapCheck now s)
    else .refused .rxCaseDoesNotApply) s

/-- RX.START (R143). -/
def execRxStart (b : Byte) (now : Time) (s : State) : Outcome :=
  rxCase .start b now (fun s => .next (openFrame b s)) s

/-- RX.RESYNC (R144). -/
def execRxResync (b : Byte) (now : Time) (s : State) : Outcome :=
  rxCase .resync b now (fun s => .next (s.resync .marker)) s

/-- RX.NOISE (R145). -/
def execRxNoise (b : Byte) (now : Time) (s : State) : Outcome :=
  rxCase .noise b now (fun s => .next (dropNoise b s)) s

/-- RX.DATA (R146, then R148 to R150). -/
def execRxData (b : Byte) (now : Time) (s : State) : Outcome :=
  rxCase .data b now (accumulate b) s

/-- RX_DRAIN(now_1, now_2, ...) (R153): one RX_BYTE per time operand while no frame is pending and a byte waits. The
operand list is the environment's (U9): when it ends, no further byte is taken (log 9). -/
def rxDrain (times : List Time) (s : State) : Outcome :=
  match times with
  | [] => .next s
  | now :: later =>
    if s.framePending then .next s
    else
      match s.rxQueue with
      | [] => .next s
      | b :: waiting => andThen (rxByte b now { s with rxQueue := waiting }) (rxDrain later)

def execRxDrain (times : List Time) (s : State) : Outcome := rxDrain times s

/-- RX_RELEASE (R155). -/
def rxRelease (s : State) : State := { s with framePending := false }

def execRxRelease (s : State) : Outcome := .next (rxRelease s)

end Sys2Proof.Machine
end

