-- ==== Sys2Proof/Machine/Registry.lean ====
section
/-! DEFINITION. The parameter registry's operations (spec/43_registry.md). -/

namespace Sys2Proof.Machine

/-- REG_CLEAR (R201). -/
def regClear (s : State) : State := { s with reg := [] }

def execRegClear (s : State) : Outcome := .next (regClear s)

/-- REG_DEFINE (R203): a duplicate is rejected before a full table is. -/
def regDefine (id : ParamId) (tag size : Byte) (s : State) : State :=
  if (lookup s.reg id).isSome then (s.diag (.regDup id)).result (.bool false)
  else if s.regN = s.cfg.regCap then (s.diag (.regFull id)).result (.bool false)
  else State.result { s with reg := s.reg ++ [⟨id, tag, size, false, []⟩] } (.bool true)

def execRegDefine (id : ParamId) (tag size : Byte) (s : State) : Outcome := .next (regDefine id tag size s)

/-- The entry with that ID. -/
def entryOf (reg : List RegEntry) (id : ParamId) : Option RegEntry := (lookup reg id).bind (reg[·]?)

/-- REG_GET (R207). -/
def regGet (id : ParamId) (s : State) : State :=
  match entryOf s.reg id with
  | none => (s.diag (.regMiss id .notFound)).result (.bytes [])
  | some e => if e.valued then s.result (.bytes e.value) else (s.diag (.regMiss id .unvalued)).result (.bytes [])

def execRegGet (id : ParamId) (s : State) : Outcome := .next (regGet id s)

/-- REG_INFO (R208). -/
def regInfo (id : ParamId) (s : State) : State :=
  match entryOf s.reg id with
  | none => s.result .absent
  | some e => s.result (.info e.tag e.size e.valued)

def execRegInfo (id : ParamId) (s : State) : Outcome := .next (regInfo id s)

/-- REG_AT (R208). -/
def regAt (k : Nat) (s : State) : State :=
  match s.reg[k]? with
  | none => s.result .absent
  | some e => s.result (.entry e.id e.tag e.size e.valued)

def execRegAt (k : Nat) (s : State) : Outcome := .next (regAt k s)

/-- REG_QUEUE replaces what was queued (R211). -/
def regQueue (updates : List Update) (s : State) : State :=
  { s with batch := updates, batchValid := batchValidOf updates }

def execRegQueue (updates : List Update) (s : State) : Outcome := .next (regQueue updates s)

/-- One request added to a coalesced list: it replaces the bytes of the request with its ID, or is appended. -/
def coalesceInto (out : List Update) (u : Update) : List Update :=
  match out with
  | [] => [u]
  | e :: rest => if e.id = u.id then ⟨e.id, u.bytes⟩ :: rest else e :: coalesceInto rest u

/-- `coalesce(updates)`: first position, last value (R213). -/
def coalesce (updates : List Update) : List Update := updates.foldl coalesceInto []

/-- What is wrong with one request of a batch (R215). -/
def updateProblem (reg : List RegEntry) (u : Update) : Option Diag :=
  match entryOf reg u.id with
  | none => some (.regUnknownId u.id)
  | some e => if u.bytes.length ≠ e.size.toNat then some (.regSize u.id u.bytes.length e.size) else none

/-- The validation pass: the first bad request's diagnostic (R215). -/
def batchProblem (reg : List RegEntry) (updates : List Update) : Option Diag :=
  match updates with
  | [] => none
  | u :: rest =>
    match updateProblem reg u with
    | some d => some d
    | none => batchProblem reg rest

/-- `reg[lookup(id)].value <- v; valued <- 1` (R215, R225). -/
def assign (reg : List RegEntry) (id : ParamId) (v : Bytes) : List RegEntry :=
  match lookup reg id with
  | none => reg
  | some i => reg.modify i (·.setValue v)

/-- The application pass (R215). -/
def assignAll (reg : List RegEntry) (updates : List Update) : List RegEntry :=
  updates.foldl (fun reg u => assign reg u.id u.bytes) reg

/-- REG_APPLY (R215): coalesce, validate all, then write all. -/
def regApply (updates : List Update) (s : State) : State :=
  let c := coalesce updates
  match batchProblem s.reg c with
  | some d => (s.diag d).result .reject
  | none => State.result { s with reg := assignAll s.reg c } (.ok c)

def execRegApply (updates : List Update) (s : State) : Outcome := .next (regApply updates s)

/-- REG_FLUSH (R220): the batch is gone whether it was accepted or rejected. -/
def regFlush (s : State) : State :=
  if s.batchValid then { regApply s.batch s with batch := [], batchValid := false } else s.result .nothing

def execRegFlush (s : State) : Outcome := .next (regFlush s)

/-- One triple of a parameter block: applied if the entry exists and the length matches, else skipped (R225 to R227).
The number is what it adds to the count applied. -/
def applyTriple (id : ParamId) (v : Bytes) (s : State) : State × Nat :=
  match entryOf s.reg id with
  | none => (s.diag (.regUnknownId id), 0)
  | some e =>
    if v.length ≠ e.size.toNat then (s.diag (.regSize id v.length e.size), 0)
    else ({ s with reg := assign s.reg id v }, 1)

/-- The triple at the head of a block and what follows it; `none` if it runs past the end (R102, R228). -/
def splitTriple (block : Bytes) : Option (ParamId × Bytes × Bytes) :=
  match block with
  | lo :: hi :: tlen :: rest =>
    if rest.length < tlen.toNat then none
    else some (word16 lo hi, rest.take tlen.toNat, rest.drop tlen.toNat)
  | _ => none

/-- The loop of REG_PARSE (R225): `p` is the offset reached, `rest` the block from there on, `applied` the count. Every
round takes at least one byte of `rest`, so `rest.length` rounds are enough. -/
def parseBlock (rounds p : Nat) (rest : Bytes) (applied : Nat) (s : State) : State × Nat :=
  match rounds, rest with
  | 0, _ => (s, applied)
  | _ + 1, [] => (s, applied)
  | rounds + 1, b :: bs =>
    match splitTriple (b :: bs) with
    | none => (s.diag (.regTrunc p), applied)
    | some (id, v, after) =>
      let (s, k) := applyTriple id v s
      parseBlock rounds (p + 3 + v.length) after (applied + k) s

/-- REG_PARSE (R225). -/
def regParse (block : Bytes) (s : State) : State :=
  let (s, applied) := parseBlock block.length 0 block 0 s
  s.result (.count applied)

def execRegParse (block : Bytes) (s : State) : Outcome := .next (regParse block s)

end Sys2Proof.Machine
end

