-- ==== Sys2Proof/Machine/Transmitter.lean ====
section
/-! DEFINITION. The transmitter's operations (spec/42_transmitter.md): SEND, SEND_REPLY, TX_POLL, RESYNC. -/

namespace Sys2Proof.Machine

/-- SEND: the counter is incremented before the frame is built (R171); on overflow it stays so (R172). -/
def send (command : BitVec 16) (payload : Bytes) (posted : Bool) (now : Time) (s : State) : State :=
  let s := { s with txCounter := s.txCounter + 1 }
  match encodeFrame s.cfg s.txCounter command payload with
  | none => s.raiseEncodeOverflow payload.length
  | some f => if posted then s.transmit f now else (s.transmit f now).expectResponse

def execSend (command : BitVec 16) (payload : Bytes) (posted : Bool) (now : Time) (s : State) : Outcome :=
  .next (send command payload posted now s)

/-- SEND_REPLY: the peer's counter, `tx_counter` untouched (R176, R177). -/
def sendReply (counter : Byte) (command : BitVec 16) (payload : Bytes) (now : Time) (s : State) : State :=
  match encodeFrame s.cfg counter command payload with
  | none => s.raiseEncodeOverflow payload.length
  | some f => if s.cfg.replyAwaits then (s.transmit f now).expectResponse else s.transmit f now

def execSendReply (counter : Byte) (command : BitVec 16) (payload : Bytes) (now : Time) (s : State) : Outcome :=
  .next (sendReply counter command payload now s)

/-- The retransmission of the recorded bytes (R82, R180). -/
def retransmit (now : Time) (s : State) : State :=
  State.diag
    { (s.writeOut s.lastFrame) with retryCount := s.retryCount + 1, lastTxTime := now }
    (.timeout (s.retryCount + 1))

/-- TX_POLL (R180, R181). -/
def txPoll (now : Time) (s : State) : State :=
  if s.responseTimeout now then
    if s.retryCount.toNat < s.cfg.maxRetries.toNat then retransmit now s else s.resync .retryExhausted
  else s

def execTxPoll (now : Time) (s : State) : Outcome := .next (txPoll now s)

/-- RESYNC: "selected directly by the client is not described by the source and is refused" (R192). Its effect is
`State.resync`, which RX_BYTE and TX_POLL invoke (R190). -/
def execResync (_cause : Cause) (_s : State) : Outcome := .refused .resyncByClient

end Sys2Proof.Machine
end

