-- ==== Sys2Proof/Machine/Tick.lean ====
section
/-! DEFINITION. The tick and the connection-state writes (spec/44_tick_host.md). -/

namespace Sys2Proof.Machine

/-- CS_SET (R245). -/
def csSet (w : CsWrite) (s : State) : State :=
  match w with
  | .sessionId v => { s with sessionId := v }
  | .lastPingTime v => { s with lastPingTime := v }
  | .lastPollTime v => { s with lastPollTime := v }

def execCsSet (w : CsWrite) (s : State) : Outcome := .next (csSet w s)

/-- One operation of the client in step (c) or (d) of a tick (R241). -/
def clientOp (o : ClientOp) (s : State) : State :=
  match o with
  | .fields => fields s
  | .send command payload posted now => send command payload posted now s
  | .sendReply counter command payload now => sendReply counter command payload now s
  | .regClear => regClear s
  | .regDefine id tag size => regDefine id tag size s
  | .regGet id => regGet id s
  | .regQueue updates => regQueue updates s
  | .regApply updates => regApply updates s
  | .regFlush => regFlush s
  | .regParse block => regParse block s
  | .regInfo id => regInfo id s
  | .regAt k => regAt k s
  | .csSet w => csSet w s

/-- The client's operations in order. -/
def clientOps (ops : List ClientOp) (s : State) : State := ops.foldl (fun s o => clientOp o s) s

/-- Step (d): a pending frame is dispatched to its handler and released (R241). -/
def dispatchPending (handler : List ClientOp) (s : State) : State :=
  if s.framePending then rxRelease (clientOps handler (fields s)) else s

/-- TICK: (a) drain, (b) timeout, (c) the client, (d) dispatch and release (R241). -/
def tick (drainTimes : List Time) (pollTime : Time) (stepC stepD : List ClientOp) (s : State) : Outcome :=
  andThen (rxDrain drainTimes s) fun s =>
    .next (dispatchPending stepD (clientOps stepC (txPoll pollTime s)))

def execTick (drainTimes : List Time) (pollTime : Time) (stepC stepD : List ClientOp) (s : State) : Outcome :=
  tick drainTimes pollTime stepC stepD s

end Sys2Proof.Machine
end

