-- ==== Sys2Proof/Machine/Wire.lean ====
section
/-! DEFINITION. The wire formats that have rows of their own (spec/30_encoding.md R90 to R97): what FCB does when such a
message stands on the line, or such a triple in a parameter block, well-formed or not (R106, R108). -/

namespace Sys2Proof.Machine

/-- A message arrives: its bytes join those waiting in the transport, and the receiver takes what it may, every byte at
the time `now` (the notation RX [..] @t of R113, with the backpressure of R152; log 14). -/
def receiveMessage (message : Bytes) (now : Time) (s : State) : Outcome :=
  rxDrain (List.replicate (s.rxQueue.length + message.length) now) { s with rxQueue := s.rxQueue ++ message }

/-- FRAME.REQ: response flag 0 (R92). -/
def execFrameReq (seq : Byte) (command : BitVec 15) (dummy : Byte) (payload : Bytes) (ck : Byte) (now : Time)
    (s : State) : Outcome :=
  receiveMessage (frameBytes s.cfg.startMarker seq (commandWord false command) dummy payload ck) now s

/-- FRAME.RSP: response flag 1 (R92). -/
def execFrameRsp (seq : Byte) (command : BitVec 15) (dummy : Byte) (payload : Bytes) (ck : Byte) (now : Time)
    (s : State) : Outcome :=
  receiveMessage (frameBytes s.cfg.startMarker seq (commandWord true command) dummy payload ck) now s

/-- RESYNC.BYTE (R96). -/
def execResyncByte (now : Time) (s : State) : Outcome := receiveMessage [s.cfg.resyncMarker] now s

/-- TRIPLE: one element of a block, with what REG_PARSE returns for a block of that one triple (R97, R225; log 15). -/
def execTriple (id : ParamId) (tbytes : Bytes) (s : State) : Outcome :=
  let (s, applied) := applyTriple id tbytes s
  .next (s.result (.count applied))

/-- A packet that is no instruction (its decoding failed with `e`). A message on the line that is no frame and no resync
byte is met by the receiver, which does "with each malformed input" what R106 says; its time is the packet's last four
bytes, as in a well-formed one (log 14). A parameter block that is no single triple is parsed as far as it goes (R228,
log 15). An operation or a received byte that is none has no effect in the spec: refused (R111, R245; log 6). -/
def execMalformed (p : Packet) (e : DecodeError) (s : State) : Outcome :=
  match p.fmt with
  | .frame | .resync =>
    match readTime (p.bytes.drop (p.bytes.length - 4)) with
    | .ok (now, _) => receiveMessage (p.bytes.take (p.bytes.length - 4)) now s
    | .error _ => .refused (.undecodable e)
  | .triple => .next (regParse p.bytes s)
  | .op | .rxByte => .refused (.undecodable e)

end Sys2Proof.Machine
end

