-- ==== Sys2Proof/Machine/Dispatch.lean ====
section
/-! DEFINITION. One arm per instruction, each one direct call of its meaning. -/

namespace Sys2Proof.Machine

def exec (i : Instr) (s : State) : Host.Outcome State Fault Refusal :=
  match i with
  | .cksum bytes => Sys2Proof.Machine.execCksum bytes s
  | .encode counter command payload => Sys2Proof.Machine.execEncode counter command payload s
  | .verify f => Sys2Proof.Machine.execVerify f s
  | .fields => Sys2Proof.Machine.execFields s
  | .rxByte b now => Sys2Proof.Machine.execRxByte b now s
  | .rxDrain times => Sys2Proof.Machine.execRxDrain times s
  | .rxRelease => Sys2Proof.Machine.execRxRelease s
  | .send command payload posted now => Sys2Proof.Machine.execSend command payload posted now s
  | .sendReply counter command payload now => Sys2Proof.Machine.execSendReply counter command payload now s
  | .txPoll now => Sys2Proof.Machine.execTxPoll now s
  | .resync cause => Sys2Proof.Machine.execResync cause s
  | .regClear => Sys2Proof.Machine.execRegClear s
  | .regDefine id tag size => Sys2Proof.Machine.execRegDefine id tag size s
  | .regGet id => Sys2Proof.Machine.execRegGet id s
  | .regQueue updates => Sys2Proof.Machine.execRegQueue updates s
  | .regApply updates => Sys2Proof.Machine.execRegApply updates s
  | .regFlush => Sys2Proof.Machine.execRegFlush s
  | .regParse block => Sys2Proof.Machine.execRegParse block s
  | .regInfo id => Sys2Proof.Machine.execRegInfo id s
  | .regAt k => Sys2Proof.Machine.execRegAt k s
  | .tick drainTimes pollTime stepC stepD => Sys2Proof.Machine.execTick drainTimes pollTime stepC stepD s
  | .csSet w => Sys2Proof.Machine.execCsSet w s
  | .rxStart b now => Sys2Proof.Machine.execRxStart b now s
  | .rxResync b now => Sys2Proof.Machine.execRxResync b now s
  | .rxNoise b now => Sys2Proof.Machine.execRxNoise b now s
  | .rxData b now => Sys2Proof.Machine.execRxData b now s
  | .frameReq seq command dummy payload ck now => Sys2Proof.Machine.execFrameReq seq command dummy payload ck now s
  | .frameRsp seq command dummy payload ck now => Sys2Proof.Machine.execFrameRsp seq command dummy payload ck now s
  | .resyncByte now => Sys2Proof.Machine.execResyncByte now s
  | .triple id tbytes => Sys2Proof.Machine.execTriple id tbytes s

end Sys2Proof.Machine
end

