-- ==== Sys2Proof/Machine/Step.lean ====
section
/-! DEFINITION. One step: the oldest item of the input, if there is one (log 5). -/

namespace Sys2Proof.Machine

/-- The instruction of a packet met in the state `s`. -/
def State.fetch (s : State) (p : Packet) : Except DecodeError Instr := decode s.cfg s.rxContext p

/-- With no input FCB does nothing ("FCB never acts on its own", R240); bytes on the line wait in the transport's queue
(R69); a packet's instruction is performed, whole (R14); what a packet that is no instruction does is `execMalformed`'s. -/
def step (s : State) : Host.Outcome State Fault Refusal :=
  match s.input with
  | [] => .next s
  | .line bytes :: later => .next { s with input := later, rxQueue := s.rxQueue ++ bytes }
  | .packet p :: later =>
    match s.fetch p with
    | .ok i => exec i { s with input := later }
    | .error e => execMalformed p e { s with input := later }

/-- The packet of a table word as the oldest item of the input. -/
def State.withFetchWord (s : State) (nbits w : Nat) : State :=
  { s with input := .packet (tablePacket s.cfg nbits w) :: s.input }

end Sys2Proof.Machine
end

