-- ==== Sys2Proof/Safety.lean ====
section
/-! DEFINITION. What a good state and a good client are, in the terms the statements use: the invariants the spec derives
from its rules, and the premises of spec/44_tick_host.md R247 and R248. -/

namespace Sys2Proof.Machine

/-- The invariants the spec states of FCB's state. They rule out states that no run reaches. -/
structure State.Inv (s : State) : Prop where
  /-- every buffer is in canonical form (log 3) -/
  rxBufWf : s.rxBuf.wf = true
  pendBufWf : s.pendBuf.wf = true
  lastBufWf : s.lastBuf.wf = true
  /-- "`rx_state = IDLE` if and only if `rx_count = 0`" (R23) -/
  idleIff : s.rxState = .idle ↔ (s.rxCount : Nat) = 0
  /-- "before the length byte is known `rx_count <= 5`, and after it `rx_count < rx_buf[5] + 7 <= CAP`" (R146) -/
  partialFrame : s.rxState = .accum → (s.rxCount : Nat) ≤ 5 ∨
    (s.rxCount : Nat) < frameTotal (s.rxBuf.read 5) ∧ frameTotal (s.rxBuf.read 5) ≤ Config.cap
  /-- a partial frame was opened by START_MARKER (R143) -/
  partialMarker : s.rxState = .accum → s.rxBuf.read 0 = s.cfg.startMarker
  /-- "When `frame_pending = 1` they hold the complete frame, start marker to checksum: `pend_len = pend_buf[5] + 7`" (R31) -/
  latchLength : s.framePending = true → (s.pendLen : Nat) = frameTotal (s.pendBuf.read 5)
  latchMarker : s.framePending = true → s.pendBuf.read 0 = s.cfg.startMarker
  latchValid : s.framePending = true → verifyFrame s.pendingFrame = true
  /-- "`retry_count <= MAX_RETRIES`" (R38) -/
  retryBound : s.retryCount.toNat ≤ s.cfg.maxRetries.toNat
  /-- "`awaiting = 1` implies `last_len >= 7`" (R39) -/
  awaitingRecorded : s.awaiting = true → 7 ≤ (s.lastLen : Nat)
  /-- a recorded frame is one that ENCODE returned (R36) -/
  recordValid : (s.lastLen : Nat) ≠ 0 → verifyFrame s.lastFrame = true
  /-- "the `id` fields of distinct entries differ" (R43) -/
  idsDistinct : (s.reg.map RegEntry.id).Nodup
  /-- `reg_n` is at most REG_CAP (R42) -/
  regBound : s.regN ≤ s.cfg.regCap
  /-- `value` is a "byte sequence of exactly that size" once valued (R43), and empty before (log 17) -/
  valueSize : ∀ e ∈ s.reg, e.value.length = if e.valued then e.size.toNat else 0
  /-- `batch_valid` says whether something is queued (R44, R211, R220) -/
  batchFlag : s.batchValid = batchValidOf s.batch

/-- "every claim takes `fault = 0` as a premise" (R45, R263). -/
def State.sound (s : State) : Prop := s.fault = false

end Sys2Proof.Machine

namespace Sys2Proof

/-- The payload of a client operation fits a frame: "keep payloads to 250 bytes or fewer" (R247). -/
def ClientOp.payloadFits : ClientOp → Bool
  | .send _ payload _ _ | .sendReply _ _ payload _ => decide (payload.length ≤ Config.maxPayload)
  | .fields | .regClear | .regDefine .. | .regGet _ | .regQueue _ | .regApply _ | .regFlush | .regParse _ | .regInfo _
  | .regAt _ | .csSet _ => true

/-- The receiver contexts in which a received byte falls under the instruction's row: the state part of the row's
condition in spec/opcode_table.json (R143 to R146). Every other instruction decodes alike in all contexts. -/
def Instr.standsIn (c : Config.Params) (rx : RxContext) : Instr → Bool
  | .rxStart _ now | .rxResync _ now | .rxNoise _ now => stateAfterGap c rx now == .idle
  | .rxData _ now => stateAfterGap c rx now == .accum
  | .cksum _ | .encode .. | .verify _ | .fields | .rxByte .. | .rxDrain _ | .rxRelease | .send .. | .sendReply .. | .txPoll _
  | .resync _ | .regClear | .regDefine .. | .regGet _ | .regQueue _ | .regApply _ | .regFlush | .regParse _ | .regInfo _
  | .regAt _ | .tick .. | .csSet _ | .frameReq .. | .frameRsp .. | .resyncByte _ | .triple .. => true

/-- The operations of spec/43_registry.md, and the triple they consume (R97). -/
def Instr.onRegistry : Instr → Bool
  | .regClear | .regDefine .. | .regGet _ | .regQueue _ | .regApply _ | .regFlush | .regParse _ | .regInfo _ | .regAt _
  | .triple .. => true
  | .cksum _ | .encode .. | .verify _ | .fields | .rxByte .. | .rxDrain _ | .rxRelease | .send .. | .sendReply .. | .txPoll _
  | .resync _ | .tick .. | .csSet _ | .rxStart .. | .rxResync .. | .rxNoise .. | .rxData .. | .frameReq .. | .frameRsp ..
  | .resyncByte _ => false

/-- The instruction performs REG_CLEAR, itself or among a tick's client operations. -/
def Instr.clearsRegistry : Instr → Bool
  | .regClear => true
  | .tick _ _ stepC stepD => decide (ClientOp.regClear ∈ stepC) || decide (ClientOp.regClear ∈ stepD)
  | .cksum _ | .encode .. | .verify _ | .fields | .rxByte .. | .rxDrain _ | .rxRelease | .send .. | .sendReply .. | .txPoll _
  | .resync _ | .regDefine .. | .regGet _ | .regQueue _ | .regApply _ | .regFlush | .regParse _ | .regInfo _ | .regAt _
  | .csSet _ | .rxStart .. | .rxResync .. | .rxNoise .. | .rxData .. | .frameReq .. | .frameRsp .. | .resyncByte _
  | .triple .. => false

/-- The client operation records a frame for retransmission: it encodes one (R171, R176; not R172, R177). -/
def ClientOp.recordsFrame : ClientOp → Bool
  | .send _ payload _ _ | .sendReply _ _ payload _ => decide (payload.length ≤ Config.maxPayload)
  | .fields | .regClear | .regDefine .. | .regGet _ | .regQueue _ | .regApply _ | .regFlush | .regParse _ | .regInfo _
  | .regAt _ | .csSet _ => false

/-- The instruction records a frame for retransmission, itself or among a tick's client operations. -/
def Instr.recordsFrame : Instr → Bool
  | .send _ payload _ _ | .sendReply _ _ payload _ => decide (payload.length ≤ Config.maxPayload)
  | .tick _ _ stepC stepD => stepC.any ClientOp.recordsFrame || stepD.any ClientOp.recordsFrame
  | .cksum _ | .encode .. | .verify _ | .fields | .rxByte .. | .rxDrain _ | .rxRelease | .txPoll _ | .resync _ | .regClear
  | .regDefine .. | .regGet _ | .regQueue _ | .regApply _ | .regFlush | .regParse _ | .regInfo _ | .regAt _ | .csSet _
  | .rxStart .. | .rxResync .. | .rxNoise .. | .rxData .. | .frameReq .. | .frameRsp .. | .resyncByte _ | .triple .. => false

/-- Every payload the instruction sends fits a frame (R247). -/
def Instr.payloadsFit : Instr → Bool
  | .send _ payload _ _ | .sendReply _ _ payload _ => decide (payload.length ≤ Config.maxPayload)
  | .tick _ _ stepC stepD => stepC.all ClientOp.payloadFits && stepD.all ClientOp.payloadFits
  | .cksum _ | .encode .. | .verify _ | .fields | .rxByte .. | .rxDrain _ | .rxRelease | .txPoll _ | .resync _ | .regClear
  | .regDefine .. | .regGet _ | .regQueue _ | .regApply _ | .regFlush | .regParse _ | .regInfo _ | .regAt _ | .csSet _
  | .rxStart .. | .rxResync .. | .rxNoise .. | .rxData .. | .frameReq .. | .frameRsp .. | .resyncByte _ | .triple .. => true

end Sys2Proof

namespace Sys2Proof.Machine

/-- Each of the readings comes at most `limit` units after the one before it, the first after `t0` (R142, R248). -/
def pausesWithin (limit : Time) (t0 : Time) : List Time → Bool
  | [] => true
  | t :: later => decide ((elapsed t t0).toNat ≤ limit.toNat) && pausesWithin limit t later

/-- Each of the readings comes more than `limit` units after the one before it, the first after `t0` (R180). -/
def pausesBeyond (limit : Time) (t0 : Time) : List Time → Bool
  | [] => true
  | t :: later => decide (limit.toNat < (elapsed t t0).toNat) && pausesBeyond limit t later

/-- The registry's membership: what REG_DEFINE fixes of each entry (R43, R200). -/
def State.members (s : State) : List (ParamId × Byte × Byte) := s.reg.map fun e => (e.id, e.tag, e.size)

/-- The connection state of R35 to R41 (spec/10_state.md section 4), with the frame-pending flag of R30. -/
structure Connection where
  txCounter    : Byte
  lastFrame    : Bytes
  lastTxTime   : Time
  retryCount   : BitVec 8
  awaiting     : Bool
  framePending : Bool
  sessionId    : BitVec 24
  lastPingTime : Time
  lastPollTime : Time
deriving DecidableEq, Repr

def State.connection (s : State) : Connection where
  txCounter := s.txCounter
  lastFrame := s.lastFrame
  lastTxTime := s.lastTxTime
  retryCount := s.retryCount
  awaiting := s.awaiting
  framePending := s.framePending
  sessionId := s.sessionId
  lastPingTime := s.lastPingTime
  lastPollTime := s.lastPollTime

/-- The receiver's state of R22 to R25. -/
structure Receiver where
  rxState    : RxState
  rxCount    : Count
  rxBuf      : Memory
  rxLastTime : Time
deriving DecidableEq, Repr

def State.receiver (s : State) : Receiver where
  rxState := s.rxState
  rxCount := s.rxCount
  rxBuf := s.rxBuf
  rxLastTime := s.rxLastTime

/-- The instructions in order, stopping at the first that does not answer a next state. -/
def execAll : List Instr → State → Outcome
  | [], s => .next s
  | i :: rest, s => andThen (exec i s) (execAll rest)

end Sys2Proof.Machine
end

