-- ==== Sys2Proof/Certificates/Slice0/Obligations.lean ====
section
/-! DEFINITION. The statements for the provers. Each says of which rule of spec/ it is a reading. An equation
`exec i s = .next { s with … }` says the result, the completion and the frame of the instruction at once: a field that
is not named is unchanged. Where a new buffer stands on both sides (`rxBuf := t.rxBuf`), the lines beside it say every
byte of it. -/

open Sys2Proof Sys2Proof.Machine

/-! ## Frame codec (spec/40_codec.md) -/

/-- R121: the result is the unique byte that completes the sum of the bytes to 0 modulo 256; nothing else changes. -/
def Obligations.ChecksumCompletesTheByteSum : Prop :=
  ∀ (bytes : Bytes) (s : State), ∃ c : Byte,
    exec (.cksum bytes) s = .next { s with resOut := s.resOut ++ [.byte c] } ∧
    ((bytes.map BitVec.toNat).sum + c.toNat) % 256 = 0 ∧
    ∀ d : Byte, ((bytes.map BitVec.toNat).sum + d.toNat) % 256 = 0 → d = c

/-- R123, R101: the frame byte for byte for up to 250 payload bytes, FAIL from 251 on. -/
def Obligations.EncodeBuildsTheFrameOrFails : Prop :=
  ∀ (counter : Byte) (command : BitVec 16) (payload : Bytes) (s : State),
    (payload.length ≤ 250 → ∃ ck : Byte,
      exec (.encode counter command payload) s = .next { s with resOut := s.resOut ++ [.frame
        ([s.cfg.startMarker, counter, command.extractLsb' 0 8, command.extractLsb' 8 8, s.cfg.dummyTx,
          BitVec.ofNat 8 payload.length] ++ payload ++ [ck])] } ∧
      (s.cfg.startMarker.toNat + counter.toNat + command.toNat % 256 + command.toNat / 256 + s.cfg.dummyTx.toNat +
        payload.length + (payload.map BitVec.toNat).sum + ck.toNat) % 256 = 0) ∧
    (250 < payload.length →
      exec (.encode counter command payload) s = .next { s with resOut := s.resOut ++ [.encodeFail] })

/-- R126: true exactly of a sequence of the declared length whose whole sum is 0 modulo 256. -/
def Obligations.VerifyAcceptsExactlyWholeSums : Prop :=
  ∀ (f : Bytes) (s : State), ∃ ok : Bool,
    exec (.verify f) s = .next { s with resOut := s.resOut ++ [.bool ok] } ∧
    (ok = true ↔ 7 ≤ f.length ∧ f.length = (f.getD 5 0).toNat + 7 ∧ (f.map BitVec.toNat).sum % 256 = 0)

/-- The corner case of R126 (the single-byte changes of spec/95_test_vectors.md section 2.2): VERIFY notices one changed
byte at any offset (at offset 5 the sum changes as well, and the declared length with it). -/
def Obligations.VerifyRejectsOneChangedByte : Prop :=
  ∀ (f : Bytes) (i : Nat) (v : Byte) (s : State),
    exec (.verify f) s = .next { s with resOut := s.resOut ++ [.bool true] } → i < f.length → v ≠ f.getD i 0 →
    exec (.verify (f.set i v)) s = .next { s with resOut := s.resOut ++ [.bool false] }

/-- X1 of spec/95_test_vectors.md, the source's property quoted in R126: what ENCODE returns, VERIFY accepts. -/
def Obligations.EncodedFramesVerify : Prop :=
  ∀ (counter : Byte) (command : BitVec 16) (payload : Bytes) (s : State), payload.length ≤ 250 →
    ∃ f : Bytes, exec (.encode counter command payload) s = .next { s with resOut := s.resOut ++ [.frame f] } ∧
      exec (.verify f) s = .next { s with resOut := s.resOut ++ [.bool true] }

/-- R128: NONE when nothing is pending, else the latched frame's fields, each read at its frame offset; nothing else
changes, `frame_pending` neither. The premise on the length is R31's. -/
def Obligations.FieldsReadsTheLatch : Prop :=
  ∀ s : State,
    (s.framePending = false → exec .fields s = .next { s with resOut := s.resOut ++ [.absent] }) ∧
    (s.framePending = true → (s.pendLen : Nat) = (s.pendBuf.read 5).toNat + 7 →
      exec .fields s = .next { s with resOut := s.resOut ++ [.fields
        { seq := s.pendBuf.read 1
          command := s.pendBuf.read 3 ++ s.pendBuf.read 2
          isResponse := (s.pendBuf.read 3).getLsbD 7
          dummy := s.pendBuf.read 4
          len := s.pendBuf.read 5
          payload := s.pendBuf.slice 6 (s.pendBuf.read 5).toNat
          cksum := s.pendBuf.read (s.pendLen - 1)
          raw := s.pendBuf.slice 0 s.pendLen }] })

/-! ## Receiver (spec/41_receiver.md)

A byte that the client feeds directly is the oldest of the bytes waiting in the transport, if any wait; it is then no
longer among them (R68, R247; log 8). -/

/-- R152: while a frame is pending RX_BYTE is refused, and so are its cases; RX_DRAIN takes no byte. -/
def Obligations.BackpressureStopsTheReceiver : Prop :=
  ∀ (b : Byte) (now : Time) (times : List Time) (s : State), s.framePending = true →
    exec (.rxByte b now) s = .refused .rxWhileFramePending ∧
    (∀ k : RxClass, exec (k.toInstr b now) s = .refused .rxWhileFramePending) ∧
    exec (.rxDrain times) s = .next s

/-- R141 with the conditions of the four RX.* rows: RX_BYTE does what the one row its byte falls under does; the other
rows have no meaning there (log 13). Neither has a byte that would overtake one that waits (R247). -/
def Obligations.RxByteRunsTheCaseOfItsByte : Prop :=
  ∀ (b : Byte) (now : Time) (s : State) (k : RxClass), s.framePending = false →
    (k = classify s.cfg (stateAfterGap s.cfg s.rxContext now) b →
      exec (k.toInstr b now) s = exec (.rxByte b now) s) ∧
    (k ≠ classify s.cfg (stateAfterGap s.cfg s.rxContext now) b → s.inStreamOrder b = true →
      exec (k.toInstr b now) s = .refused .rxCaseDoesNotApply) ∧
    ∀ (oldest : Byte) (waiting : Bytes), s.rxQueue = oldest :: waiting → oldest ≠ b →
      exec (.rxByte b now) s = .refused .rxOutOfStreamOrder ∧
      exec (k.toInstr b now) s = .refused .rxOutOfStreamOrder

/-- R142: in ACCUM, strictly more than T_INTERBYTE after the last byte, the partial frame is dropped with E_GAP and the
byte is met as a first byte; at T_INTERBYTE or less the frame is kept, as if no time had passed; in IDLE the time of
the last byte does not matter. -/
def Obligations.GapDropsThePartialFrame : Prop :=
  ∀ (b : Byte) (now last : Time) (s : State),
    (s.rxState = .accum → s.cfg.tInterbyte.toNat < (now - s.rxLastTime).toNat →
      exec (.rxByte b now) s =
        if s.framePending then .refused .rxWhileFramePending
        else exec (.rxByte b now) { s with rxState := .idle, rxCount := 0, diagOut := s.diagOut ++ [.gap s.rxCount] }) ∧
    (s.rxState = .accum → (now - s.rxLastTime).toNat ≤ s.cfg.tInterbyte.toNat →
      exec (.rxByte b now) s = exec (.rxByte b now) { s with rxLastTime := now }) ∧
    (s.rxState = .idle → exec (.rxByte b now) s = exec (.rxByte b now) { s with rxLastTime := last })

/-- R143: in IDLE the start marker is stored at index 0 and the state becomes ACCUM with count 1. -/
def Obligations.StartMarkerOpensAFrame : Prop :=
  ∀ (now : Time) (s : State), s.framePending = false → s.rxState = .idle → s.rxBuf.wf = true →
    s.inStreamOrder s.cfg.startMarker = true →
    ∃ t : State, exec (.rxByte s.cfg.startMarker now) s = .next t ∧ exec (.rxStart s.cfg.startMarker now) s = .next t ∧
      t = { s with rxBuf := t.rxBuf, rxCount := 1, rxState := .accum, rxLastTime := now, rxQueue := s.rxQueue.tail } ∧
      t.rxBuf.read 0 = s.cfg.startMarker ∧ ∀ i, i ≠ 0 → t.rxBuf.read i = s.rxBuf.read i

/-- R144: in IDLE the resync marker resets the connection state and raises one event within the same RX_BYTE; the byte
is not stored and the receiver stays IDLE with `rx_count` 0 (R23's part of the invariant), ready for a further marker,
which does the same; in ACCUM, within the inter-byte timeout, a byte of that value is data: RX_BYTE answers what RX.DATA
answers (R146), and no event is raised. -/
def Obligations.ResyncMarkerResynchronizes : Prop :=
  ∀ (now : Time) (s : State), s.framePending = false → s.cfg.startMarker ≠ s.cfg.resyncMarker →
    s.inStreamOrder s.cfg.resyncMarker = true →
    (s.rxState = .idle → ∃ t : State, exec (.rxByte s.cfg.resyncMarker now) s = .next t ∧
      exec (.rxResync s.cfg.resyncMarker now) s = .next t ∧
      t = { s with
        rxLastTime := now
        txCounter := s.cfg.seqSentinel
        lastLen := 0
        retryCount := 0
        awaiting := false
        sessionId := 0
        lastPingTime := 0
        lastPollTime := 0
        evOut := s.evOut ++ [.resync .marker]
        rxQueue := s.rxQueue.tail } ∧
      (s.Inv → t.rxState = .idle ∧ (t.rxCount : Nat) = 0) ∧
      ∀ again : Time, t.inStreamOrder s.cfg.resyncMarker = true → exec (.rxByte s.cfg.resyncMarker again) t =
        .next { t with rxLastTime := again, evOut := t.evOut ++ [.resync .marker], rxQueue := t.rxQueue.tail }) ∧
    (s.Inv → s.rxState = .accum → (now - s.rxLastTime).toNat ≤ s.cfg.tInterbyte.toNat →
      ∃ t : State, exec (.rxByte s.cfg.resyncMarker now) s = .next t ∧
        exec (.rxData s.cfg.resyncMarker now) s = .next t ∧ t.evOut = s.evOut)

/-- R145: in IDLE any other byte is discarded with E_NOISE; only `rx_last_time` changes (and the
byte no longer waits, if it did). -/
def Obligations.OtherFirstByteIsDiscarded : Prop :=
  ∀ (b : Byte) (now : Time) (s : State), s.framePending = false → s.rxState = .idle →
    b ≠ s.cfg.startMarker → b ≠ s.cfg.resyncMarker → s.inStreamOrder b = true →
    exec (.rxByte b now) s =
      .next { s with rxLastTime := now, diagOut := s.diagOut ++ [.noise b], rxQueue := s.rxQueue.tail } ∧
    exec (.rxNoise b now) s =
      .next { s with rxLastTime := now, diagOut := s.diagOut ++ [.noise b], rxQueue := s.rxQueue.tail }

/-- R146: in ACCUM, within the inter-byte timeout, a byte is appended at index `rx_count`, which is below CAP, whatever its
value, and `rx_count` is incremented (a byte that is an oversize length or completes the frame is R148 to R150's). -/
def Obligations.DataByteIsAppended : Prop :=
  ∀ (b : Byte) (now : Time) (s : State), s.Inv → s.framePending = false → s.rxState = .accum →
    (now - s.rxLastTime).toNat ≤ s.cfg.tInterbyte.toNat → s.inStreamOrder b = true →
    ((s.rxCount : Nat) = 5 → b.toNat ≤ 250) →
    ((s.rxCount : Nat) ≤ 5 ∨ (s.rxCount : Nat) + 1 < (s.rxBuf.read 5).toNat + 7) →
    (s.rxCount : Nat) < 257 ∧ ∃ t : State, exec (.rxByte b now) s = .next t ∧ exec (.rxData b now) s = .next t ∧
      t = { s with rxBuf := t.rxBuf, rxCount := t.rxCount, rxLastTime := now, rxQueue := s.rxQueue.tail } ∧
      (t.rxCount : Nat) = s.rxCount + 1 ∧ t.rxBuf.read s.rxCount = b ∧
      ∀ i, i ≠ (s.rxCount : Nat) → t.rxBuf.read i = s.rxBuf.read i

/-- R148: a length byte of 251 to 255, the sixth byte, discards the partial frame with E_OVERSIZE; any other length byte
does not. -/
def Obligations.OversizeLengthIsDiscarded : Prop :=
  ∀ (b : Byte) (now : Time) (s : State), s.rxBuf.wf = true → s.framePending = false → s.rxState = .accum →
    (now - s.rxLastTime).toNat ≤ s.cfg.tInterbyte.toNat → (s.rxCount : Nat) = 5 → s.inStreamOrder b = true →
    ∃ t : State, exec (.rxByte b now) s = .next t ∧ exec (.rxData b now) s = .next t ∧
      (250 < b.toNat → t = { s with
        rxBuf := t.rxBuf
        rxState := .idle
        rxCount := 0
        rxLastTime := now
        diagOut := s.diagOut ++ [.oversize b]
        rxQueue := s.rxQueue.tail }) ∧
      (b.toNat ≤ 250 → t = { s with rxBuf := t.rxBuf, rxCount := 6, rxLastTime := now, rxQueue := s.rxQueue.tail }) ∧
      t.rxBuf.read 5 = b ∧ ∀ i, i ≠ 5 → t.rxBuf.read i = s.rxBuf.read i

/-- R149: the last byte of a frame whose bytes do not sum to 0 discards it with E_CKSUM; nothing is latched. -/
def Obligations.BadChecksumIsDiscarded : Prop :=
  ∀ (b : Byte) (now : Time) (s : State), s.Inv → s.framePending = false → s.rxState = .accum →
    (now - s.rxLastTime).toNat ≤ s.cfg.tInterbyte.toNat → s.inStreamOrder b = true →
    6 ≤ (s.rxCount : Nat) → (s.rxCount : Nat) + 1 = (s.rxBuf.read 5).toNat + 7 →
    (((s.rxBuf.slice 0 s.rxCount).map BitVec.toNat).sum + b.toNat) % 256 ≠ 0 →
    ∃ (expected : Byte) (t : State), exec (.rxByte b now) s = .next t ∧ exec (.rxData b now) s = .next t ∧
      (((s.rxBuf.slice 0 s.rxCount).map BitVec.toNat).sum + expected.toNat) % 256 = 0 ∧
      t = { s with
        rxBuf := t.rxBuf
        rxState := .idle
        rxCount := 0
        rxLastTime := now
        diagOut := s.diagOut ++ [.cksum expected b]
        rxQueue := s.rxQueue.tail } ∧
      t.rxBuf.read s.rxCount = b ∧ ∀ i, i ≠ (s.rxCount : Nat) → t.rxBuf.read i = s.rxBuf.read i

/-- R150: the last byte of a frame whose bytes sum to 0 latches the frame, resets the receiver and, if the response flag
is set, clears `awaiting`; counter, record and retry count are untouched. -/
def Obligations.ValidFrameIsLatched : Prop :=
  ∀ (b : Byte) (now : Time) (s : State), s.Inv → s.framePending = false → s.rxState = .accum →
    (now - s.rxLastTime).toNat ≤ s.cfg.tInterbyte.toNat → s.inStreamOrder b = true →
    6 ≤ (s.rxCount : Nat) → (s.rxCount : Nat) + 1 = (s.rxBuf.read 5).toNat + 7 →
    (((s.rxBuf.slice 0 s.rxCount).map BitVec.toNat).sum + b.toNat) % 256 = 0 →
    ∃ t : State, exec (.rxByte b now) s = .next t ∧ exec (.rxData b now) s = .next t ∧
      t = { s with
        rxBuf := t.rxBuf
        rxState := .idle
        rxCount := 0
        rxLastTime := now
        framePending := true
        pendLen := t.pendLen
        pendBuf := t.pendBuf
        awaiting := if (s.rxBuf.read 3).getLsbD 7 then false else s.awaiting
        rxQueue := s.rxQueue.tail } ∧
      (t.pendLen : Nat) = s.rxCount + 1 ∧ t.pendBuf.slice 0 t.pendLen = s.rxBuf.slice 0 s.rxCount ++ [b] ∧
      (∀ i, (t.pendLen : Nat) ≤ i → t.pendBuf.read i = s.pendBuf.read i) ∧
      t.rxBuf.read s.rxCount = b ∧ ∀ i, i ≠ (s.rxCount : Nat) → t.rxBuf.read i = s.rxBuf.read i

/-- R153: a drain performs RX_BYTE on the oldest waiting byte with the first time operand and goes on; it stops at a
pending frame or an empty transport. -/
def Obligations.DrainIsALoopOfRxByte : Prop :=
  ∀ (now : Time) (later : List Time) (s : State),
    (s.framePending = true → exec (.rxDrain (now :: later)) s = .next s) ∧
    (s.rxQueue = [] → exec (.rxDrain (now :: later)) s = .next s) ∧
    ∀ (b : Byte) (waiting : Bytes) (u : State), s.framePending = false → s.rxQueue = b :: waiting →
      exec (.rxByte b now) s = .next u →
      exec (.rxDrain (now :: later)) s = exec (.rxDrain later) u

/-- R153 with two choices of the model: the drain ends when its time operands end (log 9), and no byte arrives while it
runs (log 8, where the spec's own loop may have no exit, U9). From a state that meets the invariant a drain completes;
given a time for each waiting byte it ends with a frame pending or with the transport empty, and what is left there is
the end of what stood there. -/
def Obligations.DrainTakesEverythingAvailable : Prop :=
  ∀ (times : List Time) (s : State), s.Inv →
    ∃ t : State, exec (.rxDrain times) s = .next t ∧ t.rxQueue <:+ s.rxQueue ∧
      (s.rxQueue.length ≤ times.length → t.framePending = true ∨ t.rxQueue = [])

/-- R155: RX_RELEASE clears `frame_pending` and nothing else. -/
def Obligations.ReleaseClearsFramePending : Prop :=
  ∀ s : State, exec .rxRelease s = .next { s with framePending := false }

/-- X2 of spec/95_test_vectors.md, item (1) of R157: a valid encoded frame that waits in the transport, taken one byte at
a time with pauses of at most T_INTERBYTE, is the one pending frame afterwards, byte for byte; nothing else of the
connection changes but `awaiting`, and no diagnostic or event is raised. -/
def Obligations.EncodedFrameIsReceivedWhole : Prop :=
  ∀ (counter : Byte) (command : BitVec 16) (payload f rest : Bytes) (now : Time) (later : List Time) (s : State),
    s.Inv → s.framePending = false → s.rxState = .idle →
    exec (.encode counter command payload) s = .next { s with resOut := s.resOut ++ [.frame f] } →
    s.rxQueue = f ++ rest → f.length ≤ later.length + 1 → pausesWithin s.cfg.tInterbyte now later = true →
    ∃ t : State, exec (.rxDrain (now :: later)) s = .next t ∧
      t = { s with
        rxBuf := t.rxBuf
        rxLastTime := t.rxLastTime
        framePending := true
        pendLen := t.pendLen
        pendBuf := t.pendBuf
        awaiting := if command.getLsbD 15 then false else s.awaiting
        rxQueue := rest } ∧
      t.pendBuf.slice 0 t.pendLen = f

/-- X4 of spec/95_test_vectors.md, item (3) of R157: the same frame with one byte changed at an offset other than 0 and 5 is
discarded at its last byte with E_CKSUM; nothing is latched and the connection is untouched. -/
def Obligations.ChangedFrameIsDiscarded : Prop :=
  ∀ (counter : Byte) (command : BitVec 16) (payload f : Bytes) (i : Nat) (v : Byte) (time : Time) (later : List Time)
    (s : State),
    s.Inv → s.framePending = false → s.rxState = .idle →
    exec (.encode counter command payload) s = .next { s with resOut := s.resOut ++ [.frame f] } →
    i ≠ 0 → i ≠ 5 → i < f.length → v ≠ f.getD i 0 →
    s.rxQueue = f.set i v → f.length ≤ later.length + 1 → pausesWithin s.cfg.tInterbyte time later = true →
    ∃ (t : State) (expected got : Byte), exec (.rxDrain (time :: later)) s = .next t ∧
      t = { s with
        rxBuf := t.rxBuf
        rxLastTime := t.rxLastTime
        diagOut := s.diagOut ++ [.cksum expected got]
        rxQueue := [] } ∧
      expected ≠ got

/-! ## Transmitter (spec/42_transmitter.md) -/

/-- R171: a payload of up to 250 bytes. The counter is incremented before the frame is built, the frame is written and
recorded, the time taken; a request that is not posted starts its retry count and awaits. -/
def Obligations.SendTransmitsAndRecords : Prop :=
  ∀ (command : BitVec 16) (payload : Bytes) (posted : Bool) (now : Time) (s : State), payload.length ≤ 250 →
    s.lastBuf.wf = true →
    ∃ (f : Bytes) (t : State),
      exec (.encode (s.txCounter + 1) command payload) s = .next { s with resOut := s.resOut ++ [.frame f] } ∧
      exec (.send command payload posted now) s = .next t ∧
      t = { s with
        txCounter := s.txCounter + 1
        txOut := s.txOut ++ [f]
        lastBuf := t.lastBuf
        lastLen := t.lastLen
        lastTxTime := now
        retryCount := if posted then s.retryCount else 0
        awaiting := if posted then s.awaiting else true } ∧
      (t.lastLen : Nat) = f.length ∧ t.lastBuf.slice 0 t.lastLen = f ∧
      ∀ i, f.length ≤ i → t.lastBuf.read i = s.lastBuf.read i

/-- More than 250 payload bytes in a SEND: the counter stays incremented, the sticky fault is set, nothing is written.
That the machine goes on in this state is the model's reading (log 12) of R172, whose writes are in turn the spec's own
reading, not to be relied on (U3, R263). -/
def Obligations.SendOverflowFaults : Prop :=
  ∀ (command : BitVec 16) (payload : Bytes) (posted : Bool) (now : Time) (s : State), 250 < payload.length →
    exec (.send command payload posted now) s = .next { s with
      txCounter := s.txCounter + 1
      fault := true
      diagOut := s.diagOut ++ [.encodeOverflow payload.length]
      resOut := s.resOut ++ [.encodeOverflow] }

/-- R176: a reply carries the peer's counter and leaves `tx_counter` alone; it awaits only under REPLY_AWAITS. -/
def Obligations.ReplyEchoesThePeersCounter : Prop :=
  ∀ (counter : Byte) (command : BitVec 16) (payload : Bytes) (now : Time) (s : State), payload.length ≤ 250 →
    s.lastBuf.wf = true →
    ∃ (f : Bytes) (t : State),
      exec (.encode counter command payload) s = .next { s with resOut := s.resOut ++ [.frame f] } ∧
      exec (.sendReply counter command payload now) s = .next t ∧
      t = { s with
        txOut := s.txOut ++ [f]
        lastBuf := t.lastBuf
        lastLen := t.lastLen
        lastTxTime := now
        retryCount := if s.cfg.replyAwaits then 0 else s.retryCount
        awaiting := if s.cfg.replyAwaits then true else s.awaiting } ∧
      (t.lastLen : Nat) = f.length ∧ t.lastBuf.slice 0 t.lastLen = f ∧
      ∀ i, f.length ≤ i → t.lastBuf.read i = s.lastBuf.read i

/-- More than 250 payload bytes in a reply: only the sticky fault (and its diagnostic and outcome). That the machine goes
on in this state is the model's reading (log 12) of R177, which is in turn the spec's own reading (U3, R263). -/
def Obligations.ReplyOverflowFaults : Prop :=
  ∀ (counter : Byte) (command : BitVec 16) (payload : Bytes) (now : Time) (s : State), 250 < payload.length →
    exec (.sendReply counter command payload now) s = .next { s with
      fault := true
      diagOut := s.diagOut ++ [.encodeOverflow payload.length]
      resOut := s.resOut ++ [.encodeOverflow] }

/-- R180: nothing while no response is awaited or T_RESPONSE is not exceeded; else a retransmission of the recorded
bytes, or, when the retries are exhausted, the resynchronization. -/
def Obligations.PollRetransmitsThenResynchronizes : Prop :=
  ∀ (now : Time) (s : State),
    (s.awaiting = false → exec (.txPoll now) s = .next s) ∧
    ((now - s.lastTxTime).toNat ≤ s.cfg.tResponse.toNat → exec (.txPoll now) s = .next s) ∧
    (s.awaiting = true → s.cfg.tResponse.toNat < (now - s.lastTxTime).toNat →
      s.retryCount.toNat < s.cfg.maxRetries.toNat →
      exec (.txPoll now) s = .next { s with
        txOut := s.txOut ++ [s.lastBuf.slice 0 s.lastLen]
        retryCount := s.retryCount + 1
        lastTxTime := now
        diagOut := s.diagOut ++ [.timeout (s.retryCount + 1)] }) ∧
    (s.awaiting = true → s.cfg.tResponse.toNat < (now - s.lastTxTime).toNat →
      s.cfg.maxRetries.toNat ≤ s.retryCount.toNat →
      exec (.txPoll now) s = .next { s with
        txCounter := s.cfg.seqSentinel
        lastLen := 0
        retryCount := 0
        awaiting := false
        framePending := false
        sessionId := 0
        lastPingTime := 0
        lastPollTime := 0
        evOut := s.evOut ++ [.resync .retryExhausted] })

/-- R181, X5: on an outstanding request MAX_RETRIES timeouts retransmit the recorded frame, the next one
resynchronizes, exactly once: no later poll does anything. -/
def Obligations.SilenceEscalatesExactlyOnce : Prop :=
  ∀ (times : List Time) (s : State), s.awaiting = true → s.retryCount = 0 →
    times.length = s.cfg.maxRetries.toNat + 1 → pausesBeyond s.cfg.tResponse s.lastTxTime times = true →
    ∃ t : State, execAll (times.map Instr.txPoll) s = .next t ∧
      t.txOut = s.txOut ++ List.replicate s.cfg.maxRetries.toNat (s.lastBuf.slice 0 s.lastLen) ∧
      t.evOut = s.evOut ++ [.resync .retryExhausted] ∧
      t.txCounter = s.cfg.seqSentinel ∧ t.retryCount = 0 ∧ t.awaiting = false ∧
      ∀ now : Time, exec (.txPoll now) t = .next t

/-- R82: after a request was sent, whatever operations follow that record no other frame (a SEND that overflows and so
changes `tx_counter` among them), every frame written is byte-identical to the request, its counter included; and if the
request is still outstanding then, with a retry left, the next timeout writes it once more. (No operation changes a
parameter, R305.) -/
def Obligations.RetransmissionRepeatsTheRequest : Prop :=
  ∀ (command : BitVec 16) (payload : Bytes) (sent : Time) (s : State), payload.length ≤ 250 → s.lastBuf.wf = true →
    ∃ (f : Bytes) (a : State),
      exec (.send command payload false sent) s = .next a ∧ a.txOut = s.txOut ++ [f] ∧ f.getD 1 0 = s.txCounter + 1 ∧
      a.awaiting = true ∧ a.retryCount = 0 ∧ a.lastTxTime = sent ∧
      ∀ (between : List Instr) (u : State), (∀ i ∈ between, i.recordsFrame = false) → execAll between a = .next u →
        (∃ n : Nat, u.txOut = s.txOut ++ List.replicate (n + 1) f) ∧
        ∀ polled : Time, u.awaiting = true → u.retryCount.toNat < u.cfg.maxRetries.toNat →
          u.cfg.tResponse.toNat < (polled - u.lastTxTime).toNat →
          exec (.txPoll polled) u = .next { u with
            txOut := u.txOut ++ [f]
            retryCount := u.retryCount + 1
            lastTxTime := polled
            diagOut := u.diagOut ++ [.timeout (u.retryCount + 1)] }

/-- R192: a RESYNC selected by the client is refused. -/
def Obligations.ClientSelectedResyncIsRefused : Prop :=
  ∀ (cause : Cause) (s : State), exec (.resync cause) s = .refused .resyncByClient

/-! ## Parameter registry (spec/43_registry.md) -/

/-- R201: REG_CLEAR empties the table and touches neither the queued batch nor anything else. -/
def Obligations.ClearEmptiesTheRegistry : Prop :=
  ∀ s : State, exec .regClear s = .next { s with reg := [] }

/-- R203: a known ID is rejected, a new one that does not fit is rejected, any other is appended unvalued. -/
def Obligations.DefineAddsOneUnvaluedEntry : Prop :=
  ∀ (id : ParamId) (tag size : Byte) (s : State),
    ((∃ e ∈ s.reg, e.id = id) → exec (.regDefine id tag size) s =
      .next { s with diagOut := s.diagOut ++ [.regDup id], resOut := s.resOut ++ [.bool false] }) ∧
    ((∀ e ∈ s.reg, e.id ≠ id) → s.reg.length = s.cfg.regCap → exec (.regDefine id tag size) s =
      .next { s with diagOut := s.diagOut ++ [.regFull id], resOut := s.resOut ++ [.bool false] }) ∧
    ((∀ e ∈ s.reg, e.id ≠ id) → s.reg.length ≠ s.cfg.regCap → ∃ t : State,
      exec (.regDefine id tag size) s = .next t ∧
      t = { s with reg := t.reg, resOut := s.resOut ++ [.bool true] } ∧
      ∃ e : RegEntry, t.reg = s.reg ++ [e] ∧ e.id = id ∧ e.tag = tag ∧ e.size = size ∧ e.valued = false)

/-- R207: the value of a valued entry; the empty sequence and E_REG_MISS with its reason otherwise. -/
def Obligations.GetReturnsTheValueOrNothing : Prop :=
  ∀ (id : ParamId) (s : State), (s.reg.map RegEntry.id).Nodup →
    (∀ e ∈ s.reg, e.id = id → e.valued = true →
      exec (.regGet id) s = .next { s with resOut := s.resOut ++ [.bytes e.value] }) ∧
    (∀ e ∈ s.reg, e.id = id → e.valued = false → exec (.regGet id) s =
      .next { s with diagOut := s.diagOut ++ [.regMiss id .unvalued], resOut := s.resOut ++ [.bytes []] }) ∧
    ((∀ e ∈ s.reg, e.id ≠ id) → exec (.regGet id) s =
      .next { s with diagOut := s.diagOut ++ [.regMiss id .notFound], resOut := s.resOut ++ [.bytes []] })

/-- R208: the metadata by ID and by position; NONE where there is no entry; pure reads. -/
def Obligations.InfoAndAtReadTheTable : Prop :=
  ∀ (id : ParamId) (k : Nat) (s : State), (s.reg.map RegEntry.id).Nodup →
    (∀ e ∈ s.reg, e.id = id →
      exec (.regInfo id) s = .next { s with resOut := s.resOut ++ [.info e.tag e.size e.valued] }) ∧
    ((∀ e ∈ s.reg, e.id ≠ id) → exec (.regInfo id) s = .next { s with resOut := s.resOut ++ [.absent] }) ∧
    (∀ h : k < s.reg.length, exec (.regAt k) s = .next { s with
      resOut := s.resOut ++ [.entry s.reg[k].id s.reg[k].tag s.reg[k].size s.reg[k].valued] }) ∧
    (s.reg.length ≤ k → exec (.regAt k) s = .next { s with resOut := s.resOut ++ [.absent] })

/-- R211: the new batch replaces the old; an empty list leaves nothing queued. -/
def Obligations.QueueReplacesTheBatch : Prop :=
  ∀ (u : Update) (us : List Update) (s : State),
    exec (.regQueue (u :: us)) s = .next { s with batch := u :: us, batchValid := true } ∧
    exec (.regQueue []) s = .next { s with batch := [], batchValid := false }

/-- R213: each ID once, at the position of its first occurrence, with the bytes of its last. -/
def Obligations.CoalesceKeepsFirstPlaceAndLastValue : Prop :=
  ∀ updates : List Update,
    (coalesce updates).map Update.id = (updates.map Update.id).eraseDups ∧
    ∀ u ∈ coalesce updates, (updates.filter fun v => v.id = u.id).getLast? = some u

/-- R215: the coalesced batch is accepted as a whole, and then every entry it names holds its value and every other is
untouched, or rejected as a whole at its first bad entry, and then the registry is untouched. -/
def Obligations.ApplyIsAllOrNothing : Prop :=
  ∀ (updates : List Update) (s : State), (s.reg.map RegEntry.id).Nodup →
    ((∀ u ∈ coalesce updates, ∃ e ∈ s.reg, e.id = u.id ∧ u.bytes.length = e.size.toNat) →
      exec (.regApply updates) s = .next { s with
        reg := s.reg.map fun e =>
          match (coalesce updates).find? fun u => u.id = e.id with
          | some u => { e with value := u.bytes, valued := true }
          | none => e
        resOut := s.resOut ++ [.ok (coalesce updates)] }) ∧
    ∀ (before after : List Update) (u : Update), coalesce updates = before ++ u :: after →
      (∀ v ∈ before, ∃ e ∈ s.reg, e.id = v.id ∧ v.bytes.length = e.size.toNat) →
      ((∀ e ∈ s.reg, e.id ≠ u.id) → exec (.regApply updates) s =
        .next { s with diagOut := s.diagOut ++ [.regUnknownId u.id], resOut := s.resOut ++ [.reject] }) ∧
      ∀ e ∈ s.reg, e.id = u.id → u.bytes.length ≠ e.size.toNat → exec (.regApply updates) s =
        .next { s with
          diagOut := s.diagOut ++ [.regSize u.id u.bytes.length e.size]
          resOut := s.resOut ++ [.reject] }

/-- R220: NOTHING when no batch is queued; else REG_APPLY of the batch, which is then gone, accepted or rejected. -/
def Obligations.FlushAppliesAndDropsTheBatch : Prop :=
  ∀ s : State,
    (s.batchValid = false → exec .regFlush s = .next { s with resOut := s.resOut ++ [.nothing] }) ∧
    (s.batchValid = true → ∃ t : State, exec (.regApply s.batch) s = .next t ∧
      exec .regFlush s = .next { t with batch := [], batchValid := false })

/-- R225 to R227, R229: a block of whole triples. A triple is good if the registry has its ID with its length; the good
ones are applied in order, the later value standing; the others are skipped, each with its diagnostic; the count of
the good ones is returned. -/
def Obligations.ParseAppliesEveryGoodTriple : Prop :=
  ∀ (triples : List (ParamId × Bytes)) (s : State), (s.reg.map RegEntry.id).Nodup →
    (∀ p ∈ triples, p.2.length ≤ 255) →
    ∀ good : ParamId × Bytes → Bool,
      (∀ p, good p = true ↔ ∃ e ∈ s.reg, e.id = p.1 ∧ p.2.length = e.size.toNat) →
      ∃ t : State,
        exec (.regParse (triples.flatMap fun p => tripleBytes p.1 p.2)) s = .next t ∧
        t = { s with
          reg := s.reg.map fun e =>
            match (triples.filter fun p => p.1 = e.id && good p).getLast? with
            | some p => { e with value := p.2, valued := true }
            | none => e
          diagOut := t.diagOut
          resOut := s.resOut ++ [.count (triples.filter good).length] } ∧
        ∃ skipped : List Diag, t.diagOut = s.diagOut ++ skipped ∧
          List.Forall₂ (fun p d =>
            ((∀ e ∈ s.reg, e.id ≠ p.1) ∧ d = .regUnknownId p.1) ∨
            ∃ e ∈ s.reg, e.id = p.1 ∧ p.2.length ≠ e.size.toNat ∧ d = .regSize p.1 p.2.length e.size)
            (triples.filter fun p => !good p) skipped

/-- R228: after whole triples an incomplete tail stops the parse with E_REG_TRUNC at its offset; what was applied
stays applied. -/
def Obligations.ParseStopsAtATruncatedTriple : Prop :=
  ∀ (triples : List (ParamId × Bytes)) (tail : Bytes) (s u : State), (∀ p ∈ triples, p.2.length ≤ 255) →
    tail ≠ [] → (tail.length < 3 ∨ tail.length < (tail.getD 2 0).toNat + 3) →
    exec (.regParse (triples.flatMap fun p => tripleBytes p.1 p.2)) s = .next u →
    exec (.regParse ((triples.flatMap fun p => tripleBytes p.1 p.2) ++ tail)) s =
      .next { u with diagOut := u.diagOut ++ [.regTrunc (triples.flatMap fun p => tripleBytes p.1 p.2).length] }

/-- R97: a triple standing alone is the block of its bytes, ID low byte first; it completes in every state; and bytes that
are no single triple are parsed as far as they go (log 15). -/
def Obligations.TripleIsTheBlockOfItsBytes : Prop :=
  (∀ (id : ParamId) (tbytes : Bytes) (s : State), tbytes.length ≤ 255 →
    ∃ t : State, exec (.triple id tbytes) s = .next t ∧
      exec (.regParse ([id.extractLsb' 0 8, id.extractLsb' 8 8, BitVec.ofNat 8 tbytes.length] ++ tbytes)) s = .next t ∧
      t = { s with reg := t.reg, diagOut := t.diagOut, resOut := t.resOut }) ∧
  ∀ (bytes : Bytes) (later : List Input) (e : DecodeError) (s : State), s.input = .packet ⟨.triple, bytes⟩ :: later →
    decode s.cfg s.rxContext ⟨.triple, bytes⟩ = .error e → step s = exec (.regParse bytes) { s with input := later }

/-! ## The tick and the connection-state writes (spec/44_tick_host.md) -/

/-- R241: from a state that meets the invariant a tick is the drain, the poll, the client's operations and, if a frame is
pending then, its dispatch and release, in this order; it ends with no frame pending. (That the client's behaviour is two
lists of operations is the model's choice, log 10.) -/
def Obligations.TickRunsItsFourSteps : Prop :=
  ∀ (drainTimes : List Time) (pollTime : Time) (stepC stepD : List ClientOp) (s : State), s.Inv →
    ∃ a b c t : State,
      exec (.rxDrain drainTimes) s = .next a ∧
      exec (.txPoll pollTime) a = .next b ∧
      execAll (stepC.map ClientOp.toInstr) b = .next c ∧
      (if c.framePending then execAll (.fields :: stepD.map ClientOp.toInstr ++ [.rxRelease]) c = .next t else t = c) ∧
      exec (.tick drainTimes pollTime stepC stepD) s = .next t ∧ t.framePending = false

/-- R245: CS_SET writes the one field it names. -/
def Obligations.CsSetWritesItsField : Prop :=
  ∀ (id : BitVec 24) (time : Time) (s : State),
    exec (.csSet (.sessionId id)) s = .next { s with sessionId := id } ∧
    exec (.csSet (.lastPingTime time)) s = .next { s with lastPingTime := time } ∧
    exec (.csSet (.lastPollTime time)) s = .next { s with lastPollTime := time }

/-! ## Wire messages (spec/30_encoding.md) -/

/-- R92 over R90's layout: a frame whose bytes sum to 0 that arrives at an idle receiver is latched whole; a FRAME.RSP
clears `awaiting`, a FRAME.REQ leaves it. (How a frame row runs is log 14.) -/
def Obligations.ArrivingFrameIsLatched : Prop :=
  ∀ (seq : Byte) (command : BitVec 15) (dummy : Byte) (payload : Bytes) (ck : Byte) (now : Time) (s : State),
    s.Inv → s.framePending = false → s.rxState = .idle → s.rxQueue = [] → payload.length ≤ 250 →
    ∀ response : Bool,
    (([s.cfg.startMarker, seq, command.extractLsb' 0 8, BitVec.ofBool response ++ command.extractLsb' 8 7, dummy,
      BitVec.ofNat 8 payload.length] ++ payload ++ [ck]).map BitVec.toNat).sum % 256 = 0 →
    ∃ t : State,
      exec (if response then .frameRsp seq command dummy payload ck now
        else .frameReq seq command dummy payload ck now) s = .next t ∧
      t = { s with
        rxBuf := t.rxBuf
        rxLastTime := now
        framePending := true
        pendLen := t.pendLen
        pendBuf := t.pendBuf
        awaiting := if response then false else s.awaiting } ∧
      t.pendBuf.slice 0 t.pendLen =
        [s.cfg.startMarker, seq, command.extractLsb' 0 8, BitVec.ofBool response ++ command.extractLsb' 8 7, dummy,
          BitVec.ofNat 8 payload.length] ++ payload ++ [ck]

/-- The model's choice (log 14): in every state that meets the invariant a message on the line completes; the receiver
then has a frame pending or has taken every waiting byte. So does a message that is malformed (R106): its bytes wait in
the transport, and the receiver drains it. -/
def Obligations.WireMessagesComplete : Prop :=
  (∀ (i : Instr) (s : State), s.Inv →
    ((∃ seq command dummy payload ck now, i = .frameReq seq command dummy payload ck now) ∨
      (∃ seq command dummy payload ck now, i = .frameRsp seq command dummy payload ck now) ∨
      ∃ now, i = .resyncByte now) →
    ∃ t : State, exec i s = .next t ∧ (t.framePending = true ∨ t.rxQueue = [])) ∧
  ∀ (fmt : Format) (message : Bytes) (now : Time) (later : List Input) (e : DecodeError) (s : State), s.Inv →
    fmt = .frame ∨ fmt = .resync → s.input = .packet ⟨fmt, message ++ encTime now⟩ :: later →
    decode s.cfg s.rxContext ⟨fmt, message ++ encTime now⟩ = .error e →
    ∃ t : State, step s = .next t ∧ (t.framePending = true ∨ t.rxQueue = []) ∧
      exec (.rxDrain (List.replicate (s.rxQueue.length + message.length) now))
        { s with input := later, rxQueue := s.rxQueue ++ message } = .next t

/-- R96: the resync byte resynchronizes at a frame boundary (receiver IDLE); inside a frame, within the inter-byte
timeout, it is data and raises no event. -/
def Obligations.ResyncByteOnlyAtAFrameBoundary : Prop :=
  ∀ (now : Time) (s : State), s.Inv → s.framePending = false → s.rxQueue = [] →
    s.cfg.startMarker ≠ s.cfg.resyncMarker →
    (s.rxState = .idle → exec (.resyncByte now) s = .next { s with
      rxLastTime := now
      txCounter := s.cfg.seqSentinel
      lastLen := 0
      retryCount := 0
      awaiting := false
      sessionId := 0
      lastPingTime := 0
      lastPollTime := 0
      evOut := s.evOut ++ [.resync .marker] }) ∧
    (s.rxState = .accum → (now - s.rxLastTime).toNat ≤ s.cfg.tInterbyte.toNat →
      ∃ t : State, exec (.resyncByte now) s = .next t ∧ exec (.rxData s.cfg.resyncMarker now) s = .next t ∧
        t.evOut = s.evOut)

/-! ## Reset, the step, the encodings -/

/-- R50: every value the table gives for cold start, under any parameters. (The elements it calls unspecified are left
out: their values are the model's, log 2.) -/
def Obligations.ColdStartValues : Prop :=
  ∀ c : Config.Params,
    (State.coldStart c).rxState = .idle ∧ (State.coldStart c).rxCount = 0 ∧
    (State.coldStart c).framePending = false ∧ (State.coldStart c).pendLen = 0 ∧
    (State.coldStart c).txCounter = c.seqSentinel ∧ (State.coldStart c).lastLen = 0 ∧
    (State.coldStart c).retryCount = 0 ∧ (State.coldStart c).awaiting = false ∧
    (State.coldStart c).sessionId = 0 ∧ (State.coldStart c).lastPingTime = 0 ∧ (State.coldStart c).lastPollTime = 0 ∧
    (State.coldStart c).regN = 0 ∧ (State.coldStart c).batchValid = false ∧ (State.coldStart c).batch = [] ∧
    (State.coldStart c).fault = false ∧
    (State.coldStart c).txOut = [] ∧ (State.coldStart c).evOut = [] ∧ (State.coldStart c).diagOut = []

/-- Cold start meets the invariant, under any parameters; `State.reset` is one such state (log 1). -/
def Obligations.ColdStartMeetsTheInvariant : Prop :=
  (∀ c : Config.Params, (State.coldStart c).Inv) ∧ State.reset.Inv

/-- The invariants the spec derives (R23, R31, R38, R39, R43, R146) and the canonical form of the buffers: every step
from a state that meets them gives a state that meets them. -/
def Obligations.StepKeepsTheInvariant : Prop :=
  ∀ s t : State, s.Inv → step s = .next t → t.Inv

/-- How the machine gets its instructions (log 5): a packet that decodes to a well-formed instruction is taken from the
input and its instruction is performed; nothing else happens in that step. -/
def Obligations.StepRunsTheDecodedInstruction : Prop :=
  ∀ (s : State) (p : Packet) (later : List Input) (i : Instr), s.input = .packet p :: later →
    decode s.cfg s.rxContext p = .ok i → i.wf s.cfg = true → step s = exec i { s with input := later }

/-- R240, with the ports of the model (log 5, log 8): with no operation selected nothing changes, and bytes arriving on the
line only wait in the transport. -/
def Obligations.NothingHappensBetweenOperations : Prop :=
  ∀ (s : State) (bytes : Bytes) (later : List Input),
    (s.input = [] → step s = .next s) ∧
    (s.input = .line bytes :: later → step s = .next { s with input := later, rxQueue := s.rxQueue ++ bytes })

/-- Decode after encode is the identity on the well-formed instructions, all thirty, with any zero padding, in every
receiver context in which the instruction can stand (the operand layout is log 6, the wire layouts R90 to R97). -/
def Obligations.DecodeOfEncodeIsTheInstruction : Prop :=
  ∀ (c : Config.Params) (rx : RxContext) (i : Instr) (padding : Nat), i.wf c = true → i.standsIn c rx = true →
    decode c rx ⟨(encode c i).fmt, (encode c i).bytes ++ List.replicate padding 0⟩ = .ok i

/-- A few words as R110, R90 and R97 write them, and the resync byte of R96 in a packet of its format, under REF. (That a
table word's format is told from its width, and that byte 0 of a triple's word is the least significant, is log 18; that
a time follows the resync byte is log 7.) -/
def Obligations.WordsOfTheTableDecode : Prop :=
  decodeTableWord 8 0x12 = some .rxRelease ∧
  decodeTableWord 8 0x22 = some (.txPoll 0) ∧
  decodeTableWord 8 0x35 = some .regFlush ∧
  decodeTableWord 8 0x5A = some (.rxStart 0x5A 0) ∧
  decodeTableWord 48 0x5A0710800000 = some (.frameRsp 0x07 0x0010 0x00 [] 0x00 0) ∧
  decodeTableWord 48 0x5A0710000000 = some (.frameReq 0x07 0x0010 0x00 [] 0x00 0) ∧
  decodeTableWord 24 0x000080 = some (.triple 0x0080 []) ∧
  decode Config.Params.ref coldRx ⟨.resync, [0x66, 0x00, 0x00, 0x00, 0x00]⟩ = .ok (.resyncByte 0)

/-- R111: every index outside R110's table is refused, whatever follows it, and the step that meets it stops. -/
def Obligations.UnassignedIndexIsRefused : Prop :=
  ∀ (op : Byte) (rest : Bytes) (c : Config.Params) (rx : RxContext),
    op.toNat ∉ [0x01, 0x02, 0x03, 0x04, 0x10, 0x11, 0x12, 0x20, 0x21, 0x22, 0x23, 0x30, 0x31, 0x32, 0x33, 0x34, 0x35, 0x36,
      0x37, 0x38, 0x40, 0x41] →
    decode c rx ⟨.op, op :: rest⟩ = .error (.noSuchOperation op) ∧
    ∀ (s : State) (later : List Input), s.input = .packet ⟨.op, op :: rest⟩ :: later →
      step s = .refused (.undecodable (.noSuchOperation op))

/-! ## Whole-machine rules -/

/-- R45: no operation clears the sticky fault; SEND and SEND_REPLY set it when the encode fails, and nothing else does;
it is 0 at cold start. That a failing SEND or SEND_REPLY answers a next state is the model's reading of R263 (log 12),
not to be relied on (U3). -/
def Obligations.FaultIsStickyAndAvoidable : Prop :=
  (∀ (i : Instr) (s t : State), exec i s = .next t →
    (s.fault = true → t.fault = true) ∧ (s.fault = false → i.payloadsFit = true → t.fault = false)) ∧
  (∀ (counter : Byte) (command : BitVec 16) (payload : Bytes) (posted : Bool) (now : Time) (s : State),
    250 < payload.length →
    (∃ t : State, exec (.send command payload posted now) s = .next t ∧ t.fault = true) ∧
    ∃ t : State, exec (.sendReply counter command payload now) s = .next t ∧ t.fault = true) ∧
  ∀ c : Config.Params, (State.coldStart c).fault = false

/-- R47, R50: the output traces are appended to, never cleared; R305: the parameters never change. -/
def Obligations.TracesOnlyGrowAndParametersStay : Prop :=
  ∀ (i : Instr) (s t : State), exec i s = .next t →
    s.txOut <+: t.txOut ∧ s.evOut <+: t.evOut ∧ s.diagOut <+: t.diagOut ∧ t.cfg = s.cfg

/-- R43: but for REG_CLEAR no instruction removes an entry or changes its ID, tag or size; entries are only added at the
end. -/
def Obligations.MembershipIsImmutable : Prop :=
  ∀ (i : Instr) (s t : State), exec i s = .next t → i.clearsRegistry = false → s.members <+: t.members

/-- R200: no registry operation writes to the link, touches the connection state or the receiver, raises an event or
sets the fault. -/
def Obligations.RegistryOperationsStayInTheRegistry : Prop :=
  ∀ (i : Instr) (s : State), i.onRegistry = true →
    ∃ t : State, exec i s = .next t ∧
      t = { s with reg := t.reg, batch := t.batch, batchValid := t.batchValid, diagOut := t.diagOut, resOut := t.resOut }

/-- R264: a received byte that raises a framing diagnostic and no event touches no connection state. -/
def Obligations.FramingErrorsStayInTheReceiver : Prop :=
  ∀ (b : Byte) (now : Time) (s t : State), exec (.rxByte b now) s = .next t → t.diagOut ≠ s.diagOut → t.evOut = s.evOut →
    t = { s with
      rxState := t.rxState
      rxCount := t.rxCount
      rxBuf := t.rxBuf
      rxLastTime := now
      diagOut := t.diagOut
      rxQueue := s.rxQueue.tail }

/-- R146: "The buffer can therefore never overrun": from a state that meets the invariant no instruction faults. -/
def Obligations.NoInstructionOverrunsTheBuffer : Prop :=
  ∀ (i : Instr) (s : State) (r : Fault), s.Inv → exec i s ≠ .fault r

/-- R190, R191: both triggers of a resynchronization, the marker and the exhausted retries, reset exactly the same
elements; the receiver's partial frame, the registry, the queued batch and the fault survive. -/
def Obligations.ResynchronizationKeepsTheRest : Prop :=
  ∀ (i : Instr) (now : Time) (s t : State), (i = .rxByte s.cfg.resyncMarker now ∨ i = .txPoll now) →
    exec i s = .next t → t.evOut ≠ s.evOut →
    t.txCounter = s.cfg.seqSentinel ∧ t.lastLen = 0 ∧ t.retryCount = 0 ∧ t.awaiting = false ∧ t.framePending = false ∧
    t.sessionId = 0 ∧ t.lastPingTime = 0 ∧ t.lastPollTime = 0 ∧
    t.rxBuf = s.rxBuf ∧ t.reg = s.reg ∧ t.batch = s.batch ∧ t.batchValid = s.batchValid ∧ t.fault = s.fault ∧
    t.txOut = s.txOut ∧ (i = .txPoll now → t.receiver = s.receiver) ∧ ∃ cause, t.evOut = s.evOut ++ [.resync cause]
end

