-- ==== Sys2Proof/Laws/Decode.lean ====
section
/-! SUPPORT. Each reader of the decoder undoes the encoder of its operand. -/

namespace Sys2Proof

theorem readByte_cons (b : Byte) (rest : Bytes) : readByte (b :: rest) = .ok (b, rest) := rfl

theorem readNat_leBytes (n v : Nat) (rest : Bytes) : readNat n (leBytes n v ++ rest) = .ok (v % 256 ^ n, rest) := by
  induction n generalizing v with
  | zero => simp [readNat, leBytes, Nat.mod_one]
  | succ n ih =>
    simp only [leBytes, List.cons_append, readNat, ih, bind, Except.bind]
    rw [BitVec.toNat_ofNat, show 2 ^ 8 = 256 from rfl]
    congr 2
    rw [Nat.pow_succ, Nat.mul_comm (256 ^ n), Nat.mod_mul]

theorem readNat_leBytes_four {v : Nat} (h : v < 2 ^ 32) (rest : Bytes) :
    readNat 4 (leBytes 4 v ++ rest) = .ok (v, rest) := by
  rw [readNat_leBytes, Nat.mod_eq_of_lt (by simpa using h)]

theorem readBits_leBytes {w : Nat} (n : Nat) (hw : 2 ^ w ≤ 256 ^ n) (v : BitVec w) (rest : Bytes) :
    readBits w n (leBytes n v.toNat ++ rest) = .ok (v, rest) := by
  unfold readBits
  have := v.isLt
  rw [readNat_leBytes, Nat.mod_eq_of_lt (by omega)]
  simp [bind, Except.bind]

theorem readBits_two (v : BitVec 16) (rest : Bytes) : readBits 16 2 (leBytes 2 v.toNat ++ rest) = .ok (v, rest) :=
  readBits_leBytes 2 (by decide) v rest

theorem readTime_encTime (t : Time) (rest : Bytes) : readTime (encTime t ++ rest) = .ok (t, rest) :=
  readBits_leBytes 4 (by decide) t rest

theorem readId_encId (id : ParamId) (rest : Bytes) : readId (encId id ++ rest) = .ok (id, rest) :=
  readBits_leBytes 2 (by decide) id rest

theorem readBool_encBool (b : Bool) (rest : Bytes) : readBool (encBool b :: rest) = .ok (b, rest) := by cases b <;> rfl

theorem readCause_encCause (cause : Cause) (rest : Bytes) : readCause (encCause cause :: rest) = .ok (cause, rest) := by
  cases cause <;> rfl

theorem readMany_flatMap {α : Type} {rd : Bytes → Except DecodeError (α × Bytes)} {enc : α → Bytes} (xs : List α)
    (h : ∀ x ∈ xs, ∀ rest, rd (enc x ++ rest) = .ok (x, rest)) (rest : Bytes) :
    readMany rd xs.length (xs.flatMap enc ++ rest) = .ok (xs, rest) := by
  induction xs with
  | nil => rfl
  | cons x xs ih =>
    simp only [List.length_cons, List.flatMap_cons, List.append_assoc, readMany, h x List.mem_cons_self, bind, Except.bind,
      ih (fun y hy => h y (List.mem_cons_of_mem _ hy))]

theorem readList_encList {α : Type} {rd : Bytes → Except DecodeError (α × Bytes)} {enc : α → Bytes} (xs : List α)
    (hl : seqFits xs = true) (h : ∀ x ∈ xs, ∀ rest, rd (enc x ++ rest) = .ok (x, rest)) (rest : Bytes) :
    readList rd (encList enc xs ++ rest) = .ok (xs, rest) := by
  unfold readList encList
  rw [List.append_assoc, readNat_leBytes_four (by simpa [seqFits] using hl)]
  exact readMany_flatMap xs h rest

theorem readBytes_encBytes {bs : Bytes} (hl : seqFits bs = true) (rest : Bytes) :
    readBytes (encBytes bs ++ rest) = .ok (bs, rest) :=
  readList_encList bs hl (fun _ _ _ => rfl) rest

theorem readMany_readByte (bs rest : Bytes) : readMany readByte bs.length (bs ++ rest) = .ok (bs, rest) := by
  induction bs with
  | nil => rfl
  | cons b bs ih => simp only [List.length_cons, List.cons_append, readMany, readByte_cons, ih, bind, Except.bind]

theorem readUpdate_encUpdate {u : Update} (h : u.wf = true) (rest : Bytes) :
    readUpdate (encUpdate u ++ rest) = .ok (u, rest) := by
  have h : u.bytes.length ≤ 255 := by simpa [Update.wf] using h
  unfold readUpdate encUpdate
  rw [List.append_assoc, List.append_assoc, readId_encId]
  simp only [bind, Except.bind, List.cons_append, List.nil_append, readByte_cons]
  rw [show (BitVec.ofNat 8 u.bytes.length).toNat = u.bytes.length by simp; omega, readMany_readByte]

theorem readUpdates_encUpdates {us : List Update} (h : updatesFit us = true) (rest : Bytes) :
    readUpdates (encUpdates us ++ rest) = .ok (us, rest) := by
  simp only [updatesFit, Bool.and_eq_true, List.all_eq_true] at h
  exact readList_encList us h.1 (fun u hu rest => readUpdate_encUpdate (h.2 u hu) rest) rest

theorem readCsWrite_encCsWrite (w : CsWrite) (rest : Bytes) : readCsWrite (encCsWrite w ++ rest) = .ok (w, rest) := by
  cases w with
  | sessionId v =>
    have : readBits 24 3 (leBytes 3 v.toNat ++ rest) = .ok (v, rest) := readBits_leBytes 3 (by decide) v rest
    simp only [readCsWrite, encCsWrite, List.cons_append, readByte_cons, bind, Except.bind, if_true, this]
  | lastPingTime t =>
    simp only [readCsWrite, encCsWrite, List.cons_append, readByte_cons, bind, Except.bind, readTime_encTime]
    rfl
  | lastPollTime t =>
    simp only [readCsWrite, encCsWrite, List.cons_append, readByte_cons, bind, Except.bind, readTime_encTime]
    rfl

/-! ## Byte order -/

/-- The two bytes of a word put back together (R100, R102). -/
theorem word16_low_high (v : BitVec 16) : word16 (lowByte v) (highByte v) = v := by
  apply BitVec.eq_of_getLsbD_eq
  intro i hi
  simp only [word16, lowByte, highByte, BitVec.getLsbD_append, BitVec.getLsbD_setWidth, BitVec.getLsbD_extractLsb']
  split
  · simp [*]
  · rw [show 8 + (i - 8) = i by omega]; simp [show i - 8 < 8 by omega]

theorem word16_commandWord (response : Bool) (command : BitVec 15) :
    (word16 (lowByte (commandWord response command)) (highByte (commandWord response command))).setWidth 15 = command := by
  rw [word16_low_high]
  apply BitVec.eq_of_getLsbD_eq
  intro i hi
  simp only [commandWord, BitVec.getLsbD_setWidth, BitVec.getLsbD_append, hi, if_true]
  simp

/-- The response flag is bit 15 of the command (R92). -/
theorem highByte_commandWord_msb (response : Bool) (command : BitVec 15) :
    (highByte (commandWord response command)).msb = response := by
  simp only [highByte, commandWord, BitVec.msb_eq_getLsbD_last, BitVec.getLsbD_extractLsb', BitVec.getLsbD_append]
  cases response <;> rfl

theorem lowByte_commandWord (response : Bool) (command : BitVec 15) :
    lowByte (commandWord response command) = command.extractLsb' 0 8 := by
  apply BitVec.eq_of_getLsbD_eq
  intro i hi
  simp only [lowByte, commandWord, BitVec.getLsbD_setWidth, BitVec.getLsbD_append, BitVec.getLsbD_extractLsb', hi,
    decide_true, Bool.true_and, Nat.zero_add]
  rw [if_pos (by omega)]

theorem highByte_commandWord (response : Bool) (command : BitVec 15) :
    highByte (commandWord response command) = BitVec.ofBool response ++ command.extractLsb' 8 7 := by
  apply BitVec.eq_of_getLsbD_eq
  intro i hi
  simp only [highByte, commandWord, BitVec.getLsbD_append, BitVec.getLsbD_extractLsb', hi, decide_true, Bool.true_and]
  by_cases h : i < 7
  · rw [if_pos (by omega), if_pos h]; simp [h]
  · rw [if_neg (by omega), if_neg h]; congr 1; omega

theorem lowByte_toNat (v : BitVec 16) : (lowByte v).toNat = v.toNat % 256 := by simp [lowByte]

theorem highByte_toNat (v : BitVec 16) : (highByte v).toNat = v.toNat / 256 := by
  have := v.isLt
  simp [highByte, Nat.shiftRight_eq_div_pow]
  omega

/-- An operation is an operation of the client or one of the nine others (R110, R241). -/
theorem readOperands_client {op : Byte} (bs : Bytes)
    (h : ∀ n ∈ [0x01, 0x02, 0x03, 0x10, 0x11, 0x12, 0x22, 0x23, 0x40], op.toNat ≠ n) :
    readOperands op bs = (readClientOperands op bs).map fun x => (x.1.toInstr, x.2) := by
  unfold readOperands
  split <;> first | (exfalso; rename_i he; revert he; apply h; decide) | skip
  cases readClientOperands op bs <;> rfl

end Sys2Proof
end

