-- ==== Sys2Proof/Laws/Memory.lean ====
section
/-! SUPPORT. The laws of a buffer: a read after a write, what a write leaves alone, and that every operation keeps the
canonical form. -/

namespace Sys2Proof.Machine

/-- The rising part of the canonical form, and no entry that reads as an unlisted index. -/
def Memory.canonicalFrom (lo : Nat) (m : Memory) : Prop :=
  Memory.risingFrom lo m = true ∧ ∀ cell ∈ m, cell.2 ≠ Memory.unlisted

@[simp] theorem Memory.read_nil (i : Nat) : Memory.read [] i = 0 := rfl

theorem Memory.read_cons (a : Nat) (b : Byte) (rest : Memory) (i : Nat) :
    Memory.read ((a, b) :: rest) i = if a = i then b else Memory.read rest i := rfl

theorem Memory.risingFrom_mono {lo lo' : Nat} {m : Memory} (h : Memory.risingFrom lo m = true) (hl : lo' ≤ lo) :
    Memory.risingFrom lo' m = true := by
  cases m with
  | nil => rfl
  | cons c rest =>
    obtain ⟨a, b⟩ := c
    simp only [Memory.risingFrom, Bool.and_eq_true, decide_eq_true_eq] at h ⊢
    exact ⟨by omega, h.2⟩

theorem Memory.read_below {lo i : Nat} {m : Memory} (h : Memory.risingFrom lo m = true) (hi : i < lo) :
    m.read i = 0 := by
  induction m generalizing lo with
  | nil => rfl
  | cons c rest ih =>
    obtain ⟨a, b⟩ := c
    simp only [Memory.risingFrom, Bool.and_eq_true, decide_eq_true_eq] at h
    rw [Memory.read_cons, if_neg (by omega)]
    exact ih h.2 (by omega)

/-- A read after a write to the same index gives the value written. -/
theorem Memory.read_write_same {lo : Nat} {m : Memory} (h : Memory.risingFrom lo m = true) (i : Nat) (v : Byte) :
    (m.write i v).read i = v := by
  induction m generalizing lo with
  | nil =>
    unfold Memory.write
    split
    · next hv => rw [hv]; rfl
    · simp [Memory.read_cons]
  | cons c rest ih =>
    obtain ⟨a, b⟩ := c
    simp only [Memory.risingFrom, Bool.and_eq_true, decide_eq_true_eq] at h
    unfold Memory.write
    split
    · next hlt => rw [Memory.read_cons, if_neg (by omega)]; exact ih h.2
    · split
      · next heq =>
        split
        · next hv => rw [hv]; exact Memory.read_below h.2 (by omega)
        · simp [Memory.read_cons]
      · split
        · next hv =>
          rw [hv, Memory.read_cons, if_neg (by omega)]
          exact Memory.read_below h.2 (by omega)
        · simp [Memory.read_cons]

/-- A write leaves every other index alone. -/
theorem Memory.read_write_other (m : Memory) {i j : Nat} (v : Byte) (hij : j ≠ i) :
    (m.write i v).read j = m.read j := by
  induction m with
  | nil =>
    unfold Memory.write
    split
    · rfl
    · rw [Memory.read_cons, if_neg (by omega)]
  | cons c rest ih =>
    obtain ⟨a, b⟩ := c
    unfold Memory.write
    split
    · rw [Memory.read_cons, Memory.read_cons, ih]
    · split
      · split
        · rw [Memory.read_cons, if_neg (by omega)]
        · rw [Memory.read_cons, Memory.read_cons, if_neg (by omega), if_neg (by omega)]
      · split
        · rfl
        · rw [Memory.read_cons, if_neg (by omega)]

theorem Memory.write_risingFrom {lo : Nat} {m : Memory} (h : Memory.risingFrom lo m = true) {i : Nat} (v : Byte)
    (hi : lo ≤ i) : Memory.risingFrom lo (m.write i v) = true := by
  induction m generalizing lo with
  | nil =>
    unfold Memory.write
    split
    · rfl
    · simp [Memory.risingFrom, hi]
  | cons c rest ih =>
    obtain ⟨a, b⟩ := c
    simp only [Memory.risingFrom, Bool.and_eq_true, decide_eq_true_eq] at h
    unfold Memory.write
    split
    · next hlt =>
      simp only [Memory.risingFrom, Bool.and_eq_true, decide_eq_true_eq]
      exact ⟨h.1, ih h.2 (by omega)⟩
    · split
      · next heq =>
        split
        · exact Memory.risingFrom_mono h.2 (by omega)
        · simp only [Memory.risingFrom, Bool.and_eq_true, decide_eq_true_eq]
          exact ⟨hi, heq ▸ h.2⟩
      · split
        · simp only [Memory.risingFrom, Bool.and_eq_true, decide_eq_true_eq]
          exact h
        · simp only [Memory.risingFrom, Bool.and_eq_true, decide_eq_true_eq]
          exact ⟨hi, by omega, h.2⟩

/-- What a write lists: entries that stood before, or the byte written, if it is not what an unlisted index reads as. -/
theorem Memory.mem_write {m : Memory} {i : Nat} {v : Byte} {cell : Host.Cell} (h : cell ∈ m.write i v) :
    cell ∈ m ∨ cell = (i, v) ∧ v ≠ Memory.unlisted := by
  induction m with
  | nil =>
    unfold Memory.write at h
    split at h
    · cases h
    · next hv => exact .inr ⟨by simpa using h, hv⟩
  | cons c rest ih =>
    obtain ⟨a, b⟩ := c
    unfold Memory.write at h
    split at h
    · rcases List.mem_cons.1 h with h | h
      · exact .inl (h ▸ List.mem_cons_self)
      · exact (ih h).imp_left (List.mem_cons_of_mem _)
    · split at h
      · split at h
        · exact .inl (List.mem_cons_of_mem _ h)
        · next hv =>
          rcases List.mem_cons.1 h with h | h
          · exact .inr ⟨h, hv⟩
          · exact .inl (List.mem_cons_of_mem _ h)
      · split at h
        · exact .inl h
        · next hv =>
          rcases List.mem_cons.1 h with h | h
          · exact .inr ⟨h, hv⟩
          · exact .inl h

theorem Memory.wf_iff (m : Memory) : m.wf = true ↔
    Memory.risingFrom 0 m = true ∧ ∀ cell ∈ m, cell.2 ≠ Memory.unlisted ∧ cell.1 < Config.cap := by
  simp [Memory.wf, List.all_eq_true]

@[simp] theorem Memory.wf_nil : Memory.wf [] = true := rfl

/-- A write inside the buffer keeps the canonical form. -/
theorem Memory.write_wf {m : Memory} (h : m.wf = true) {i : Nat} (v : Byte) (hi : i < Config.cap) :
    (m.write i v).wf = true := by
  rw [Memory.wf_iff] at h ⊢
  refine ⟨Memory.write_risingFrom h.1 v (Nat.zero_le _), fun cell hc => ?_⟩
  rcases Memory.mem_write hc with hc | ⟨rfl, hv⟩
  · exact h.2 cell hc
  · exact ⟨hv, hi⟩

theorem Memory.wf_rising {m : Memory} (h : m.wf = true) : Memory.risingFrom 0 m = true := ((Memory.wf_iff m).1 h).1

/-- A store inside the buffer keeps the canonical form. -/
theorem Memory.store_wf {m : Memory} (h : m.wf = true) {i : Nat} {bs : Bytes} (hi : i + bs.length ≤ Config.cap) :
    (m.store i bs).wf = true := by
  induction bs generalizing m i with
  | nil => exact h
  | cons b rest ih =>
    simp only [List.length_cons] at hi
    exact ih (Memory.write_wf h b (by omega)) (by omega)

/-- A store leaves every index outside its bytes alone. -/
theorem Memory.read_store_outside (m : Memory) {i j : Nat} (bs : Bytes) (hj : j < i ∨ i + bs.length ≤ j) :
    (m.store i bs).read j = m.read j := by
  induction bs generalizing m i with
  | nil => rfl
  | cons b rest ih =>
    simp only [List.length_cons] at hj
    rw [Memory.store, ih _ (by omega), Memory.read_write_other _ _ (by omega)]

theorem Memory.store_risingFrom {m : Memory} (h : Memory.risingFrom 0 m = true) (i : Nat) (bs : Bytes) :
    Memory.risingFrom 0 (m.store i bs) = true := by
  induction bs generalizing m i with
  | nil => exact h
  | cons b rest ih => exact ih (Memory.write_risingFrom h b (Nat.zero_le _)) _

/-- A read inside a store gives the byte stored there. -/
theorem Memory.read_store_inside {m : Memory} (h : Memory.risingFrom 0 m = true) (i : Nat) (bs : Bytes) {k : Nat}
    (hk : k < bs.length) : (m.store i bs).read (i + k) = bs[k] := by
  induction bs generalizing m i k with
  | nil => cases hk
  | cons b rest ih =>
    have hw := Memory.write_risingFrom h b (Nat.zero_le i)
    cases k with
    | zero =>
      rw [Memory.store, Memory.read_store_outside _ _ (by omega)]
      exact Memory.read_write_same h i b
    | succ k =>
      simp only [List.length_cons] at hk
      have := ih hw (i + 1) (k := k) (by omega)
      rw [show i + (k + 1) = i + 1 + k by omega]
      exact this

@[simp] theorem Memory.slice_length (m : Memory) (i n : Nat) : (m.slice i n).length = n := by
  induction n generalizing i with
  | zero => rfl
  | succ n ih => simp [Memory.slice, ih]

theorem Memory.slice_getElem? (m : Memory) (i : Nat) {n k : Nat} (hk : k < n) :
    (m.slice i n)[k]? = some (m.read (i + k)) := by
  induction n generalizing i k with
  | zero => omega
  | succ n ih =>
    cases k with
    | zero => rfl
    | succ k => simpa [Memory.slice, Nat.add_assoc, Nat.add_comm 1] using ih (i + 1) (by omega : k < n)

theorem Memory.slice_getD (m : Memory) (i : Nat) {n k : Nat} (hk : k < n) (d : Byte) :
    (m.slice i n).getD k d = m.read (i + k) := by
  simp [List.getD_eq_getElem?_getD, Memory.slice_getElem? m i hk]

/-- Reading back what was stored. -/
theorem Memory.slice_store {m : Memory} (h : Memory.risingFrom 0 m = true) (i : Nat) (bs : Bytes) :
    (m.store i bs).slice i bs.length = bs := by
  refine List.ext_getElem? fun k => ?_
  by_cases hk : k < bs.length
  · rw [Memory.slice_getElem? _ _ hk, Memory.read_store_inside h i bs hk, List.getElem?_eq_getElem hk]
  · rw [List.getElem?_eq_none (by simpa using hk), List.getElem?_eq_none (by simpa using hk)]

/-- A slice depends on the bytes inside it only. -/
theorem Memory.slice_congr {m m' : Memory} {i n : Nat} (h : ∀ k < n, m.read (i + k) = m'.read (i + k)) :
    m.slice i n = m'.slice i n := by
  refine List.ext_getElem? fun k => ?_
  by_cases hk : k < n
  · rw [Memory.slice_getElem? _ _ hk, Memory.slice_getElem? _ _ hk, h k hk]
  · rw [List.getElem?_eq_none (by simpa using hk), List.getElem?_eq_none (by simpa using hk)]

/-- The byte after a slice extends it. -/
theorem Memory.slice_succ (m : Memory) (i n : Nat) : m.slice i (n + 1) = m.slice i n ++ [m.read (i + n)] := by
  induction n generalizing i with
  | zero => rfl
  | succ n ih =>
    rw [Memory.slice, ih (i + 1), Memory.slice]
    simp [Nat.add_assoc, Nat.add_comm 1]

/-- Appending a byte at the end of a slice. -/
theorem Memory.slice_write_end {m : Memory} (h : Memory.risingFrom 0 m = true) (i n : Nat) (b : Byte) :
    (m.write (i + n) b).slice i (n + 1) = m.slice i n ++ [b] := by
  rw [Memory.slice_succ, Memory.read_write_same h]
  congr 1
  exact Memory.slice_congr fun k hk => Memory.read_write_other _ _ (by omega)

/-- Two buffers in canonical form that read alike are equal. -/
theorem Memory.ext_of_wf {m m' : Memory} (h : m.wf = true) (h' : m'.wf = true) (hr : ∀ i, m.read i = m'.read i) :
    m = m' := by
  have key : ∀ (m m' : Memory) (lo : Nat), m.canonicalFrom lo → m'.canonicalFrom lo → (∀ i, m.read i = m'.read i) →
      m = m' := by
    intro m
    induction m with
    | nil =>
      intro m' lo _ h' hr
      cases m' with
      | nil => rfl
      | cons c rest =>
        obtain ⟨a, b⟩ := c
        have := hr a
        simp [Memory.read_cons] at this
        exact absurd this.symm (h'.2 _ List.mem_cons_self)
    | cons c rest ih =>
      obtain ⟨a, b⟩ := c
      intro m' lo h h' hr
      have hb : b ≠ Memory.unlisted := h.2 (a, b) List.mem_cons_self
      have hrise := h.1
      simp only [Memory.risingFrom, Bool.and_eq_true, decide_eq_true_eq] at hrise
      cases m' with
      | nil =>
        have := hr a
        simp [Memory.read_cons] at this
        exact absurd this hb
      | cons c' rest' =>
        obtain ⟨a', b'⟩ := c'
        have hb' : b' ≠ Memory.unlisted := h'.2 (a', b') List.mem_cons_self
        have hrise' := h'.1
        simp only [Memory.risingFrom, Bool.and_eq_true, decide_eq_true_eq] at hrise'
        have haa : a = a' := by
          rcases Nat.lt_trichotomy a a' with hlt | heq | hgt
          · have := hr a
            rw [Memory.read_cons, if_pos rfl, Memory.read_cons, if_neg (by omega),
              Memory.read_below hrise'.2 (by omega)] at this
            exact absurd this hb
          · exact heq
          · have := hr a'
            rw [Memory.read_cons, if_neg (by omega), Memory.read_cons, if_pos rfl,
              Memory.read_below hrise.2 (by omega)] at this
            exact absurd this.symm hb'
        subst haa
        have hbb : b = b' := by simpa [Memory.read_cons] using hr a
        subst hbb
        refine congrArg _ (ih rest' (a + 1) ⟨hrise.2, fun c hc => h.2 c (List.mem_cons_of_mem _ hc)⟩
          ⟨hrise'.2, fun c hc => h'.2 c (List.mem_cons_of_mem _ hc)⟩ fun i => ?_)
        have := hr i
        rw [Memory.read_cons, Memory.read_cons] at this
        by_cases hi : a = i
        · rw [Memory.read_below hrise.2 (by omega), Memory.read_below hrise'.2 (by omega)]
        · rwa [if_neg hi, if_neg hi] at this
  rw [Memory.wf_iff] at h h'
  exact key m m' 0 ⟨h.1, fun c hc => (h.2 c hc).1⟩ ⟨h'.1, fun c hc => (h'.2 c hc).1⟩ hr

/-- The three buffers of a cold start, and so of `State.reset`, are in canonical form. -/
theorem coldStart_buffers_wf (c : Config.Params) : (State.coldStart c).rxBuf.wf = true ∧
    (State.coldStart c).pendBuf.wf = true ∧ (State.coldStart c).lastBuf.wf = true := ⟨rfl, rfl, rfl⟩

end Sys2Proof.Machine
end

