-- ==== Sys2Proof/Laws/Frame.lean ====
section
/-! SUPPORT. What the checksum, ENCODE and VERIFY compute, said once. -/

namespace Sys2Proof.Machine

@[simp] theorem byteSum_nil : byteSum [] = 0 := rfl

@[simp] theorem byteSum_cons (b : Byte) (bs : Bytes) : byteSum (b :: bs) = b.toNat + byteSum bs := rfl

@[simp] theorem byteSum_append (s t : Bytes) : byteSum (s ++ t) = byteSum s + byteSum t := by
  induction s with
  | nil => simp
  | cons b s ih => simp [ih, Nat.add_assoc]

theorem byteSum_eq_sum (s : Bytes) : byteSum s = (s.map BitVec.toNat).sum := by
  induction s with
  | nil => rfl
  | cons b s ih => simp [ih]

theorem cksum_toNat (s : Bytes) : (cksum s).toNat = (256 - byteSum s % 256) % 256 := by
  simp [cksum]

/-- The checksum is the one byte that completes the sum to a multiple of 256. -/
theorem cksum_eq_iff (s : Bytes) (c : Byte) : cksum s = c ↔ (byteSum s + c.toNat) % 256 = 0 := by
  have hc := c.isLt
  rw [BitVec.toNat_eq, cksum_toNat]
  omega

@[simp] theorem frameHeader_length (c : Config.Params) (counter : Byte) (command : BitVec 16) (n : Nat) :
    (frameHeader c counter command n).length = 6 := rfl

theorem encodeFrame_none_iff (c : Config.Params) (counter : Byte) (command : BitVec 16) (payload : Bytes) :
    encodeFrame c counter command payload = none ↔ Config.maxPayload < payload.length := by
  unfold encodeFrame
  split
  · simp only [true_iff, Config.maxPayload, Config.cap] at *; omega
  · simp only [reduceCtorEq, false_iff, Config.maxPayload, Config.cap] at *; omega

/-- The frame ENCODE returns for a payload that fits. -/
theorem encodeFrame_of_le (c : Config.Params) (counter : Byte) (command : BitVec 16) {payload : Bytes}
    (h : payload.length ≤ Config.maxPayload) :
    encodeFrame c counter command payload =
      some (frameHeader c counter command payload.length ++ payload ++
        [cksum (frameHeader c counter command payload.length ++ payload)]) := by
  unfold encodeFrame
  rw [if_neg (by simp only [Config.maxPayload, Config.cap] at *; omega)]

theorem encodeFrame_length {c : Config.Params} {counter : Byte} {command : BitVec 16} {payload f : Bytes}
    (h : encodeFrame c counter command payload = some f) :
    f.length = payload.length + 7 ∧ payload.length ≤ Config.maxPayload := by
  have hp : payload.length ≤ Config.maxPayload := by
    by_contra hc
    rw [(encodeFrame_none_iff ..).2 (by omega)] at h
    cases h
  rw [encodeFrame_of_le c counter command hp, Option.some.injEq] at h
  subst h
  refine ⟨?_, hp⟩
  simp only [List.length_append, frameHeader_length, List.length_cons, List.length_nil]
  omega

@[simp] theorem frameByte_append_left {f g : Bytes} {i : Nat} (h : i < f.length) :
    frameByte (f ++ g) i = frameByte f i := by
  simp [frameByte, List.getD_eq_getElem?_getD, List.getElem?_append_left h]

theorem frameByte_append_right {f g : Bytes} {i : Nat} (h : f.length ≤ i) :
    frameByte (f ++ g) i = frameByte g (i - f.length) := by
  simp [frameByte, List.getD_eq_getElem?_getD, List.getElem?_append_right h]

/-- VERIFY says exactly that the length is the one declared and the whole sum is 0 modulo 256. -/
theorem verifyFrame_iff (f : Bytes) : verifyFrame f = true ↔
    7 ≤ f.length ∧ f.length = frameTotal (frameByte f 5) ∧ byteSum f % 256 = 0 := by
  unfold verifyFrame
  split
  · simp only [Bool.false_eq_true, false_iff]; omega
  · next h7 =>
    split
    · next hl => simp only [Bool.false_eq_true, false_iff, not_and]; exact fun _ h => absurd h hl
    · next hl =>
      have hlast : f = f.take (f.length - 1) ++ [frameByte f (f.length - 1)] := by
        have hne : f.length - 1 < f.length := by omega
        conv_lhs => rw [← List.take_append_drop (f.length - 1) f]
        congr 1
        rw [List.drop_eq_getElem_cons hne, List.drop_of_length_le (by omega)]
        simp [frameByte, List.getD_eq_getElem?_getD, List.getElem?_eq_getElem hne]
      have hsum : byteSum f = byteSum (f.take (f.length - 1)) + (frameByte f (f.length - 1)).toNat := by
        conv_lhs => rw [hlast]
        simp
      rw [beq_iff_eq, cksum_eq_iff, ← hsum]
      constructor
      · exact fun h => ⟨by omega, by simpa using hl, h⟩
      · exact fun h => h.2.2

/-- What ENCODE returns, VERIFY accepts. -/
theorem verifyFrame_encodeFrame {c : Config.Params} {counter : Byte} {command : BitVec 16} {payload f : Bytes}
    (h : encodeFrame c counter command payload = some f) : verifyFrame f = true := by
  obtain ⟨hl, hp⟩ := encodeFrame_length h
  rw [encodeFrame_of_le c counter command hp, Option.some.injEq] at h
  rw [verifyFrame_iff]
  refine ⟨by omega, ?_, ?_⟩
  · rw [hl, ← h, frameByte_append_left (by simp; omega), frameByte_append_left (by simp)]
    simp only [frameTotal, frameByte, frameHeader, List.getD_eq_getElem?_getD]
    simp only [Config.maxPayload, Config.cap] at hp
    simp
    omega
  · rw [← h, byteSum_append, byteSum_cons, byteSum_nil, Nat.add_zero]
    exact (cksum_eq_iff _ _).1 rfl

end Sys2Proof.Machine
end

