-- ==== Sys2Proof/Laws/PerInstr.lean ====
section
/-! SUPPORT. The family `RowOf`: the encoding of every well-formed instruction is in the format of its row of
spec/opcode_table.json, and its bytes meet the row's fixed bits. -/

namespace Sys2Proof.Laws.RowOf

/-- The fixed bits of the row as a condition on the packet: the format, and the bytes at the offsets the row fixes. -/
def row (c : Config.Params) : Instr → Packet → Prop
  | .cksum .., p => p.fmt = .op ∧ p.bytes.head? = some 0x01
  | .encode .., p => p.fmt = .op ∧ p.bytes.head? = some 0x02
  | .verify .., p => p.fmt = .op ∧ p.bytes.head? = some 0x03
  | .fields, p => p.fmt = .op ∧ p.bytes.head? = some 0x04
  | .rxByte .., p => p.fmt = .op ∧ p.bytes.head? = some 0x10
  | .rxDrain .., p => p.fmt = .op ∧ p.bytes.head? = some 0x11
  | .rxRelease, p => p.fmt = .op ∧ p.bytes.head? = some 0x12
  | .send .., p => p.fmt = .op ∧ p.bytes.head? = some 0x20
  | .sendReply .., p => p.fmt = .op ∧ p.bytes.head? = some 0x21
  | .txPoll .., p => p.fmt = .op ∧ p.bytes.head? = some 0x22
  | .resync .., p => p.fmt = .op ∧ p.bytes.head? = some 0x23
  | .regClear, p => p.fmt = .op ∧ p.bytes.head? = some 0x30
  | .regDefine .., p => p.fmt = .op ∧ p.bytes.head? = some 0x31
  | .regGet .., p => p.fmt = .op ∧ p.bytes.head? = some 0x32
  | .regQueue .., p => p.fmt = .op ∧ p.bytes.head? = some 0x33
  | .regApply .., p => p.fmt = .op ∧ p.bytes.head? = some 0x34
  | .regFlush, p => p.fmt = .op ∧ p.bytes.head? = some 0x35
  | .regParse .., p => p.fmt = .op ∧ p.bytes.head? = some 0x36
  | .regInfo .., p => p.fmt = .op ∧ p.bytes.head? = some 0x37
  | .regAt .., p => p.fmt = .op ∧ p.bytes.head? = some 0x38
  | .tick .., p => p.fmt = .op ∧ p.bytes.head? = some 0x40
  | .csSet .., p => p.fmt = .op ∧ p.bytes.head? = some 0x41
  | .rxStart .., p => p.fmt = .rxByte ∧ p.bytes.head? = some c.startMarker
  | .rxResync .., p => p.fmt = .rxByte ∧ p.bytes.head? = some c.resyncMarker
  | .rxNoise .., p => p.fmt = .rxByte ∧ p.bytes.head? ≠ some c.startMarker ∧ p.bytes.head? ≠ some c.resyncMarker
  | .rxData .., p => p.fmt = .rxByte ∧ p.bytes ≠ []
  | .frameReq .., p => p.fmt = .frame ∧ p.bytes.head? = some c.startMarker ∧ (p.bytes.getD 3 0).msb = false ∧
      (p.bytes.getD 5 0).toNat ≤ Config.maxPayload
  | .frameRsp .., p => p.fmt = .frame ∧ p.bytes.head? = some c.startMarker ∧ (p.bytes.getD 3 0).msb = true ∧
      (p.bytes.getD 5 0).toNat ≤ Config.maxPayload
  | .resyncByte .., p => p.fmt = .resync ∧ p.bytes.head? = some c.resyncMarker
  | .triple .., p => p.fmt = .triple ∧ p.bytes.length = (p.bytes.getD 2 0).toNat + 3

/-- The instruction's packet is one of its row, under all parameters under which it is well-formed. -/
def Statement (i : Instr) : Prop := ∀ c : Config.Params, i.wf c = true → row c i (Sys2Proof.encode c i)

theorem cksum (s : Bytes) : Statement (.cksum s) := fun _ _ => ⟨rfl, rfl⟩

theorem encode (counter : Byte) (command : BitVec 16) (payload : Bytes) :
    Statement (.encode counter command payload) := fun _ _ => ⟨rfl, rfl⟩

theorem verify (f : Bytes) : Statement (.verify f) := fun _ _ => ⟨rfl, rfl⟩

theorem fields : Statement .fields := fun _ _ => ⟨rfl, rfl⟩

theorem rxByte (b : Byte) (now : Time) : Statement (.rxByte b now) := fun _ _ => ⟨rfl, rfl⟩

theorem rxDrain (times : List Time) : Statement (.rxDrain times) := fun _ _ => ⟨rfl, rfl⟩

theorem rxRelease : Statement .rxRelease := fun _ _ => ⟨rfl, rfl⟩

theorem send (command : BitVec 16) (payload : Bytes) (posted : Bool) (now : Time) :
    Statement (.send command payload posted now) := fun _ _ => ⟨rfl, rfl⟩

theorem sendReply (counter : Byte) (command : BitVec 16) (payload : Bytes) (now : Time) :
    Statement (.sendReply counter command payload now) := fun _ _ => ⟨rfl, rfl⟩

theorem txPoll (now : Time) : Statement (.txPoll now) := fun _ _ => ⟨rfl, rfl⟩

theorem resync (cause : Cause) : Statement (.resync cause) := fun _ _ => ⟨rfl, rfl⟩

theorem regClear : Statement .regClear := fun _ _ => ⟨rfl, rfl⟩

theorem regDefine (id : ParamId) (tag size : Byte) : Statement (.regDefine id tag size) := fun _ _ => ⟨rfl, rfl⟩

theorem regGet (id : ParamId) : Statement (.regGet id) := fun _ _ => ⟨rfl, rfl⟩

theorem regQueue (updates : List Update) : Statement (.regQueue updates) := fun _ _ => ⟨rfl, rfl⟩

theorem regApply (updates : List Update) : Statement (.regApply updates) := fun _ _ => ⟨rfl, rfl⟩

theorem regFlush : Statement .regFlush := fun _ _ => ⟨rfl, rfl⟩

theorem regParse (block : Bytes) : Statement (.regParse block) := fun _ _ => ⟨rfl, rfl⟩

theorem regInfo (id : ParamId) : Statement (.regInfo id) := fun _ _ => ⟨rfl, rfl⟩

theorem regAt (k : Nat) : Statement (.regAt k) := fun _ _ => ⟨rfl, rfl⟩

theorem tick (drainTimes : List Time) (pollTime : Time) (stepC stepD : List ClientOp) :
    Statement (.tick drainTimes pollTime stepC stepD) := fun _ _ => ⟨rfl, rfl⟩

theorem csSet (w : CsWrite) : Statement (.csSet w) := fun _ _ => ⟨rfl, rfl⟩

theorem rxStart (b : Byte) (now : Time) : Statement (.rxStart b now) := fun c h =>
  ⟨rfl, by simpa [Sys2Proof.encode, Instr.wf] using h⟩

theorem rxResync (b : Byte) (now : Time) : Statement (.rxResync b now) := fun c h =>
  ⟨rfl, by simp [Instr.wf] at h; simp [Sys2Proof.encode, h.1]⟩

theorem rxNoise (b : Byte) (now : Time) : Statement (.rxNoise b now) := fun c h =>
  ⟨rfl, by simp [Instr.wf] at h; simp [Sys2Proof.encode, h.1], by simp [Instr.wf] at h; simp [Sys2Proof.encode, h.2]⟩

theorem rxData (b : Byte) (now : Time) : Statement (.rxData b now) := fun _ _ => ⟨rfl, by simp [Sys2Proof.encode]⟩

/-- A payload that fits has its length in one byte. -/
theorem length_byte {n : Nat} (h : n ≤ Config.maxPayload) : (BitVec.ofNat 8 n).toNat = n := by
  simp only [Config.maxPayload, Config.cap] at h
  simp
  omega

theorem response_bit (response : Bool) (command : BitVec 15) :
    (highByte (commandWord response command)).msb = response := by
  simp only [highByte, commandWord, BitVec.msb_eq_getLsbD_last, BitVec.getLsbD_extractLsb', BitVec.getLsbD_append]
  cases response <;> rfl

theorem frameReq (seq : Byte) (command : BitVec 15) (dummy : Byte) (payload : Bytes) (ck : Byte) (now : Time) :
    Statement (.frameReq seq command dummy payload ck now) := fun c h => by
  have h : payload.length ≤ Config.maxPayload := by simpa [Instr.wf] using h
  exact ⟨rfl, rfl, response_bit false command, by
    show (BitVec.ofNat 8 payload.length).toNat ≤ _
    rw [length_byte h]; exact h⟩

theorem frameRsp (seq : Byte) (command : BitVec 15) (dummy : Byte) (payload : Bytes) (ck : Byte) (now : Time) :
    Statement (.frameRsp seq command dummy payload ck now) := fun c h => by
  have h : payload.length ≤ Config.maxPayload := by simpa [Instr.wf] using h
  exact ⟨rfl, rfl, response_bit true command, by
    show (BitVec.ofNat 8 payload.length).toNat ≤ _
    rw [length_byte h]; exact h⟩

theorem resyncByte (now : Time) : Statement (.resyncByte now) := fun _ _ => ⟨rfl, rfl⟩

theorem triple (id : ParamId) (tbytes : Bytes) : Statement (.triple id tbytes) := fun c h => by
  have h : tbytes.length ≤ 255 := by simpa [Instr.wf] using h
  refine ⟨rfl, ?_⟩
  show (tripleBytes id tbytes).length = (BitVec.ofNat 8 tbytes.length).toNat + 3
  simp [tripleBytes]
  omega

end Sys2Proof.Laws.RowOf
end

