-- ==== Sys2Proof/Laws/State.lean ====
section
/-! SUPPORT. One lemma per field per named update of the state, each true by unfolding that one update. -/

namespace Sys2Proof.Machine

/-! ### State.diag -/

@[simp] theorem State.diag_rxState (s : State) (d : Diag) : (s.diag d).rxState = s.rxState := rfl
@[simp] theorem State.diag_rxCount (s : State) (d : Diag) : (s.diag d).rxCount = s.rxCount := rfl
@[simp] theorem State.diag_rxBuf (s : State) (d : Diag) : (s.diag d).rxBuf = s.rxBuf := rfl
@[simp] theorem State.diag_rxLastTime (s : State) (d : Diag) : (s.diag d).rxLastTime = s.rxLastTime := rfl
@[simp] theorem State.diag_framePending (s : State) (d : Diag) : (s.diag d).framePending = s.framePending := rfl
@[simp] theorem State.diag_pendLen (s : State) (d : Diag) : (s.diag d).pendLen = s.pendLen := rfl
@[simp] theorem State.diag_pendBuf (s : State) (d : Diag) : (s.diag d).pendBuf = s.pendBuf := rfl
@[simp] theorem State.diag_txCounter (s : State) (d : Diag) : (s.diag d).txCounter = s.txCounter := rfl
@[simp] theorem State.diag_lastLen (s : State) (d : Diag) : (s.diag d).lastLen = s.lastLen := rfl
@[simp] theorem State.diag_lastBuf (s : State) (d : Diag) : (s.diag d).lastBuf = s.lastBuf := rfl
@[simp] theorem State.diag_lastTxTime (s : State) (d : Diag) : (s.diag d).lastTxTime = s.lastTxTime := rfl
@[simp] theorem State.diag_retryCount (s : State) (d : Diag) : (s.diag d).retryCount = s.retryCount := rfl
@[simp] theorem State.diag_awaiting (s : State) (d : Diag) : (s.diag d).awaiting = s.awaiting := rfl
@[simp] theorem State.diag_sessionId (s : State) (d : Diag) : (s.diag d).sessionId = s.sessionId := rfl
@[simp] theorem State.diag_lastPingTime (s : State) (d : Diag) : (s.diag d).lastPingTime = s.lastPingTime := rfl
@[simp] theorem State.diag_lastPollTime (s : State) (d : Diag) : (s.diag d).lastPollTime = s.lastPollTime := rfl
@[simp] theorem State.diag_reg (s : State) (d : Diag) : (s.diag d).reg = s.reg := rfl
@[simp] theorem State.diag_batchValid (s : State) (d : Diag) : (s.diag d).batchValid = s.batchValid := rfl
@[simp] theorem State.diag_batch (s : State) (d : Diag) : (s.diag d).batch = s.batch := rfl
@[simp] theorem State.diag_fault (s : State) (d : Diag) : (s.diag d).fault = s.fault := rfl
@[simp] theorem State.diag_txOut (s : State) (d : Diag) : (s.diag d).txOut = s.txOut := rfl
@[simp] theorem State.diag_evOut (s : State) (d : Diag) : (s.diag d).evOut = s.evOut := rfl
@[simp] theorem State.diag_diagOut (s : State) (d : Diag) : (s.diag d).diagOut = s.diagOut ++ [d] := rfl
@[simp] theorem State.diag_cfg (s : State) (d : Diag) : (s.diag d).cfg = s.cfg := rfl
@[simp] theorem State.diag_input (s : State) (d : Diag) : (s.diag d).input = s.input := rfl
@[simp] theorem State.diag_rxQueue (s : State) (d : Diag) : (s.diag d).rxQueue = s.rxQueue := rfl
@[simp] theorem State.diag_resOut (s : State) (d : Diag) : (s.diag d).resOut = s.resOut := rfl

/-! ### State.emit -/

@[simp] theorem State.emit_rxState (s : State) (e : Event) : (s.emit e).rxState = s.rxState := rfl
@[simp] theorem State.emit_rxCount (s : State) (e : Event) : (s.emit e).rxCount = s.rxCount := rfl
@[simp] theorem State.emit_rxBuf (s : State) (e : Event) : (s.emit e).rxBuf = s.rxBuf := rfl
@[simp] theorem State.emit_rxLastTime (s : State) (e : Event) : (s.emit e).rxLastTime = s.rxLastTime := rfl
@[simp] theorem State.emit_framePending (s : State) (e : Event) : (s.emit e).framePending = s.framePending := rfl
@[simp] theorem State.emit_pendLen (s : State) (e : Event) : (s.emit e).pendLen = s.pendLen := rfl
@[simp] theorem State.emit_pendBuf (s : State) (e : Event) : (s.emit e).pendBuf = s.pendBuf := rfl
@[simp] theorem State.emit_txCounter (s : State) (e : Event) : (s.emit e).txCounter = s.txCounter := rfl
@[simp] theorem State.emit_lastLen (s : State) (e : Event) : (s.emit e).lastLen = s.lastLen := rfl
@[simp] theorem State.emit_lastBuf (s : State) (e : Event) : (s.emit e).lastBuf = s.lastBuf := rfl
@[simp] theorem State.emit_lastTxTime (s : State) (e : Event) : (s.emit e).lastTxTime = s.lastTxTime := rfl
@[simp] theorem State.emit_retryCount (s : State) (e : Event) : (s.emit e).retryCount = s.retryCount := rfl
@[simp] theorem State.emit_awaiting (s : State) (e : Event) : (s.emit e).awaiting = s.awaiting := rfl
@[simp] theorem State.emit_sessionId (s : State) (e : Event) : (s.emit e).sessionId = s.sessionId := rfl
@[simp] theorem State.emit_lastPingTime (s : State) (e : Event) : (s.emit e).lastPingTime = s.lastPingTime := rfl
@[simp] theorem State.emit_lastPollTime (s : State) (e : Event) : (s.emit e).lastPollTime = s.lastPollTime := rfl
@[simp] theorem State.emit_reg (s : State) (e : Event) : (s.emit e).reg = s.reg := rfl
@[simp] theorem State.emit_batchValid (s : State) (e : Event) : (s.emit e).batchValid = s.batchValid := rfl
@[simp] theorem State.emit_batch (s : State) (e : Event) : (s.emit e).batch = s.batch := rfl
@[simp] theorem State.emit_fault (s : State) (e : Event) : (s.emit e).fault = s.fault := rfl
@[simp] theorem State.emit_txOut (s : State) (e : Event) : (s.emit e).txOut = s.txOut := rfl
@[simp] theorem State.emit_evOut (s : State) (e : Event) : (s.emit e).evOut = s.evOut ++ [e] := rfl
@[simp] theorem State.emit_diagOut (s : State) (e : Event) : (s.emit e).diagOut = s.diagOut := rfl
@[simp] theorem State.emit_cfg (s : State) (e : Event) : (s.emit e).cfg = s.cfg := rfl
@[simp] theorem State.emit_input (s : State) (e : Event) : (s.emit e).input = s.input := rfl
@[simp] theorem State.emit_rxQueue (s : State) (e : Event) : (s.emit e).rxQueue = s.rxQueue := rfl
@[simp] theorem State.emit_resOut (s : State) (e : Event) : (s.emit e).resOut = s.resOut := rfl

/-! ### State.result -/

@[simp] theorem State.result_rxState (s : State) (r : Result) : (s.result r).rxState = s.rxState := rfl
@[simp] theorem State.result_rxCount (s : State) (r : Result) : (s.result r).rxCount = s.rxCount := rfl
@[simp] theorem State.result_rxBuf (s : State) (r : Result) : (s.result r).rxBuf = s.rxBuf := rfl
@[simp] theorem State.result_rxLastTime (s : State) (r : Result) : (s.result r).rxLastTime = s.rxLastTime := rfl
@[simp] theorem State.result_framePending (s : State) (r : Result) : (s.result r).framePending = s.framePending := rfl
@[simp] theorem State.result_pendLen (s : State) (r : Result) : (s.result r).pendLen = s.pendLen := rfl
@[simp] theorem State.result_pendBuf (s : State) (r : Result) : (s.result r).pendBuf = s.pendBuf := rfl
@[simp] theorem State.result_txCounter (s : State) (r : Result) : (s.result r).txCounter = s.txCounter := rfl
@[simp] theorem State.result_lastLen (s : State) (r : Result) : (s.result r).lastLen = s.lastLen := rfl
@[simp] theorem State.result_lastBuf (s : State) (r : Result) : (s.result r).lastBuf = s.lastBuf := rfl
@[simp] theorem State.result_lastTxTime (s : State) (r : Result) : (s.result r).lastTxTime = s.lastTxTime := rfl
@[simp] theorem State.result_retryCount (s : State) (r : Result) : (s.result r).retryCount = s.retryCount := rfl
@[simp] theorem State.result_awaiting (s : State) (r : Result) : (s.result r).awaiting = s.awaiting := rfl
@[simp] theorem State.result_sessionId (s : State) (r : Result) : (s.result r).sessionId = s.sessionId := rfl
@[simp] theorem State.result_lastPingTime (s : State) (r : Result) : (s.result r).lastPingTime = s.lastPingTime := rfl
@[simp] theorem State.result_lastPollTime (s : State) (r : Result) : (s.result r).lastPollTime = s.lastPollTime := rfl
@[simp] theorem State.result_reg (s : State) (r : Result) : (s.result r).reg = s.reg := rfl
@[simp] theorem State.result_batchValid (s : State) (r : Result) : (s.result r).batchValid = s.batchValid := rfl
@[simp] theorem State.result_batch (s : State) (r : Result) : (s.result r).batch = s.batch := rfl
@[simp] theorem State.result_fault (s : State) (r : Result) : (s.result r).fault = s.fault := rfl
@[simp] theorem State.result_txOut (s : State) (r : Result) : (s.result r).txOut = s.txOut := rfl
@[simp] theorem State.result_evOut (s : State) (r : Result) : (s.result r).evOut = s.evOut := rfl
@[simp] theorem State.result_diagOut (s : State) (r : Result) : (s.result r).diagOut = s.diagOut := rfl
@[simp] theorem State.result_cfg (s : State) (r : Result) : (s.result r).cfg = s.cfg := rfl
@[simp] theorem State.result_input (s : State) (r : Result) : (s.result r).input = s.input := rfl
@[simp] theorem State.result_rxQueue (s : State) (r : Result) : (s.result r).rxQueue = s.rxQueue := rfl
@[simp] theorem State.result_resOut (s : State) (r : Result) : (s.result r).resOut = s.resOut ++ [r] := rfl

/-! ### State.writeOut -/

@[simp] theorem State.writeOut_rxState (s : State) (f : Bytes) : (s.writeOut f).rxState = s.rxState := rfl
@[simp] theorem State.writeOut_rxCount (s : State) (f : Bytes) : (s.writeOut f).rxCount = s.rxCount := rfl
@[simp] theorem State.writeOut_rxBuf (s : State) (f : Bytes) : (s.writeOut f).rxBuf = s.rxBuf := rfl
@[simp] theorem State.writeOut_rxLastTime (s : State) (f : Bytes) : (s.writeOut f).rxLastTime = s.rxLastTime := rfl
@[simp] theorem State.writeOut_framePending (s : State) (f : Bytes) : (s.writeOut f).framePending = s.framePending := rfl
@[simp] theorem State.writeOut_pendLen (s : State) (f : Bytes) : (s.writeOut f).pendLen = s.pendLen := rfl
@[simp] theorem State.writeOut_pendBuf (s : State) (f : Bytes) : (s.writeOut f).pendBuf = s.pendBuf := rfl
@[simp] theorem State.writeOut_txCounter (s : State) (f : Bytes) : (s.writeOut f).txCounter = s.txCounter := rfl
@[simp] theorem State.writeOut_lastLen (s : State) (f : Bytes) : (s.writeOut f).lastLen = s.lastLen := rfl
@[simp] theorem State.writeOut_lastBuf (s : State) (f : Bytes) : (s.writeOut f).lastBuf = s.lastBuf := rfl
@[simp] theorem State.writeOut_lastTxTime (s : State) (f : Bytes) : (s.writeOut f).lastTxTime = s.lastTxTime := rfl
@[simp] theorem State.writeOut_retryCount (s : State) (f : Bytes) : (s.writeOut f).retryCount = s.retryCount := rfl
@[simp] theorem State.writeOut_awaiting (s : State) (f : Bytes) : (s.writeOut f).awaiting = s.awaiting := rfl
@[simp] theorem State.writeOut_sessionId (s : State) (f : Bytes) : (s.writeOut f).sessionId = s.sessionId := rfl
@[simp] theorem State.writeOut_lastPingTime (s : State) (f : Bytes) : (s.writeOut f).lastPingTime = s.lastPingTime := rfl
@[simp] theorem State.writeOut_lastPollTime (s : State) (f : Bytes) : (s.writeOut f).lastPollTime = s.lastPollTime := rfl
@[simp] theorem State.writeOut_reg (s : State) (f : Bytes) : (s.writeOut f).reg = s.reg := rfl
@[simp] theorem State.writeOut_batchValid (s : State) (f : Bytes) : (s.writeOut f).batchValid = s.batchValid := rfl
@[simp] theorem State.writeOut_batch (s : State) (f : Bytes) : (s.writeOut f).batch = s.batch := rfl
@[simp] theorem State.writeOut_fault (s : State) (f : Bytes) : (s.writeOut f).fault = s.fault := rfl
@[simp] theorem State.writeOut_txOut (s : State) (f : Bytes) : (s.writeOut f).txOut = s.txOut ++ [f] := rfl
@[simp] theorem State.writeOut_evOut (s : State) (f : Bytes) : (s.writeOut f).evOut = s.evOut := rfl
@[simp] theorem State.writeOut_diagOut (s : State) (f : Bytes) : (s.writeOut f).diagOut = s.diagOut := rfl
@[simp] theorem State.writeOut_cfg (s : State) (f : Bytes) : (s.writeOut f).cfg = s.cfg := rfl
@[simp] theorem State.writeOut_input (s : State) (f : Bytes) : (s.writeOut f).input = s.input := rfl
@[simp] theorem State.writeOut_rxQueue (s : State) (f : Bytes) : (s.writeOut f).rxQueue = s.rxQueue := rfl
@[simp] theorem State.writeOut_resOut (s : State) (f : Bytes) : (s.writeOut f).resOut = s.resOut := rfl

/-! ### State.receiverReset -/

@[simp] theorem State.receiverReset_rxState (s : State) : s.receiverReset.rxState = .idle := rfl
@[simp] theorem State.receiverReset_rxCount (s : State) : s.receiverReset.rxCount = 0 := rfl
@[simp] theorem State.receiverReset_rxBuf (s : State) : s.receiverReset.rxBuf = s.rxBuf := rfl
@[simp] theorem State.receiverReset_rxLastTime (s : State) : s.receiverReset.rxLastTime = s.rxLastTime := rfl
@[simp] theorem State.receiverReset_framePending (s : State) : s.receiverReset.framePending = s.framePending := rfl
@[simp] theorem State.receiverReset_pendLen (s : State) : s.receiverReset.pendLen = s.pendLen := rfl
@[simp] theorem State.receiverReset_pendBuf (s : State) : s.receiverReset.pendBuf = s.pendBuf := rfl
@[simp] theorem State.receiverReset_txCounter (s : State) : s.receiverReset.txCounter = s.txCounter := rfl
@[simp] theorem State.receiverReset_lastLen (s : State) : s.receiverReset.lastLen = s.lastLen := rfl
@[simp] theorem State.receiverReset_lastBuf (s : State) : s.receiverReset.lastBuf = s.lastBuf := rfl
@[simp] theorem State.receiverReset_lastTxTime (s : State) : s.receiverReset.lastTxTime = s.lastTxTime := rfl
@[simp] theorem State.receiverReset_retryCount (s : State) : s.receiverReset.retryCount = s.retryCount := rfl
@[simp] theorem State.receiverReset_awaiting (s : State) : s.receiverReset.awaiting = s.awaiting := rfl
@[simp] theorem State.receiverReset_sessionId (s : State) : s.receiverReset.sessionId = s.sessionId := rfl
@[simp] theorem State.receiverReset_lastPingTime (s : State) : s.receiverReset.lastPingTime = s.lastPingTime := rfl
@[simp] theorem State.receiverReset_lastPollTime (s : State) : s.receiverReset.lastPollTime = s.lastPollTime := rfl
@[simp] theorem State.receiverReset_reg (s : State) : s.receiverReset.reg = s.reg := rfl
@[simp] theorem State.receiverReset_batchValid (s : State) : s.receiverReset.batchValid = s.batchValid := rfl
@[simp] theorem State.receiverReset_batch (s : State) : s.receiverReset.batch = s.batch := rfl
@[simp] theorem State.receiverReset_fault (s : State) : s.receiverReset.fault = s.fault := rfl
@[simp] theorem State.receiverReset_txOut (s : State) : s.receiverReset.txOut = s.txOut := rfl
@[simp] theorem State.receiverReset_evOut (s : State) : s.receiverReset.evOut = s.evOut := rfl
@[simp] theorem State.receiverReset_diagOut (s : State) : s.receiverReset.diagOut = s.diagOut := rfl
@[simp] theorem State.receiverReset_cfg (s : State) : s.receiverReset.cfg = s.cfg := rfl
@[simp] theorem State.receiverReset_input (s : State) : s.receiverReset.input = s.input := rfl
@[simp] theorem State.receiverReset_rxQueue (s : State) : s.receiverReset.rxQueue = s.rxQueue := rfl
@[simp] theorem State.receiverReset_resOut (s : State) : s.receiverReset.resOut = s.resOut := rfl

/-! ### State.takeByte -/

@[simp] theorem State.takeByte_rxState (s : State) : s.takeByte.rxState = s.rxState := rfl
@[simp] theorem State.takeByte_rxCount (s : State) : s.takeByte.rxCount = s.rxCount := rfl
@[simp] theorem State.takeByte_rxBuf (s : State) : s.takeByte.rxBuf = s.rxBuf := rfl
@[simp] theorem State.takeByte_rxLastTime (s : State) : s.takeByte.rxLastTime = s.rxLastTime := rfl
@[simp] theorem State.takeByte_framePending (s : State) : s.takeByte.framePending = s.framePending := rfl
@[simp] theorem State.takeByte_pendLen (s : State) : s.takeByte.pendLen = s.pendLen := rfl
@[simp] theorem State.takeByte_pendBuf (s : State) : s.takeByte.pendBuf = s.pendBuf := rfl
@[simp] theorem State.takeByte_txCounter (s : State) : s.takeByte.txCounter = s.txCounter := rfl
@[simp] theorem State.takeByte_lastLen (s : State) : s.takeByte.lastLen = s.lastLen := rfl
@[simp] theorem State.takeByte_lastBuf (s : State) : s.takeByte.lastBuf = s.lastBuf := rfl
@[simp] theorem State.takeByte_lastTxTime (s : State) : s.takeByte.lastTxTime = s.lastTxTime := rfl
@[simp] theorem State.takeByte_retryCount (s : State) : s.takeByte.retryCount = s.retryCount := rfl
@[simp] theorem State.takeByte_awaiting (s : State) : s.takeByte.awaiting = s.awaiting := rfl
@[simp] theorem State.takeByte_sessionId (s : State) : s.takeByte.sessionId = s.sessionId := rfl
@[simp] theorem State.takeByte_lastPingTime (s : State) : s.takeByte.lastPingTime = s.lastPingTime := rfl
@[simp] theorem State.takeByte_lastPollTime (s : State) : s.takeByte.lastPollTime = s.lastPollTime := rfl
@[simp] theorem State.takeByte_reg (s : State) : s.takeByte.reg = s.reg := rfl
@[simp] theorem State.takeByte_batchValid (s : State) : s.takeByte.batchValid = s.batchValid := rfl
@[simp] theorem State.takeByte_batch (s : State) : s.takeByte.batch = s.batch := rfl
@[simp] theorem State.takeByte_fault (s : State) : s.takeByte.fault = s.fault := rfl
@[simp] theorem State.takeByte_txOut (s : State) : s.takeByte.txOut = s.txOut := rfl
@[simp] theorem State.takeByte_evOut (s : State) : s.takeByte.evOut = s.evOut := rfl
@[simp] theorem State.takeByte_diagOut (s : State) : s.takeByte.diagOut = s.diagOut := rfl
@[simp] theorem State.takeByte_cfg (s : State) : s.takeByte.cfg = s.cfg := rfl
@[simp] theorem State.takeByte_input (s : State) : s.takeByte.input = s.input := rfl
@[simp] theorem State.takeByte_rxQueue (s : State) : s.takeByte.rxQueue = s.rxQueue.tail := rfl
@[simp] theorem State.takeByte_resOut (s : State) : s.takeByte.resOut = s.resOut := rfl

/-! ### State.resync -/

@[simp] theorem State.resync_rxState (s : State) (cause : Cause) : (s.resync cause).rxState = s.rxState := rfl
@[simp] theorem State.resync_rxCount (s : State) (cause : Cause) : (s.resync cause).rxCount = s.rxCount := rfl
@[simp] theorem State.resync_rxBuf (s : State) (cause : Cause) : (s.resync cause).rxBuf = s.rxBuf := rfl
@[simp] theorem State.resync_rxLastTime (s : State) (cause : Cause) : (s.resync cause).rxLastTime = s.rxLastTime := rfl
@[simp] theorem State.resync_framePending (s : State) (cause : Cause) : (s.resync cause).framePending = false := rfl
@[simp] theorem State.resync_pendLen (s : State) (cause : Cause) : (s.resync cause).pendLen = s.pendLen := rfl
@[simp] theorem State.resync_pendBuf (s : State) (cause : Cause) : (s.resync cause).pendBuf = s.pendBuf := rfl
@[simp] theorem State.resync_txCounter (s : State) (cause : Cause) : (s.resync cause).txCounter = s.cfg.seqSentinel := rfl
@[simp] theorem State.resync_lastLen (s : State) (cause : Cause) : (s.resync cause).lastLen = 0 := rfl
@[simp] theorem State.resync_lastBuf (s : State) (cause : Cause) : (s.resync cause).lastBuf = s.lastBuf := rfl
@[simp] theorem State.resync_lastTxTime (s : State) (cause : Cause) : (s.resync cause).lastTxTime = s.lastTxTime := rfl
@[simp] theorem State.resync_retryCount (s : State) (cause : Cause) : (s.resync cause).retryCount = 0 := rfl
@[simp] theorem State.resync_awaiting (s : State) (cause : Cause) : (s.resync cause).awaiting = false := rfl
@[simp] theorem State.resync_sessionId (s : State) (cause : Cause) : (s.resync cause).sessionId = 0 := rfl
@[simp] theorem State.resync_lastPingTime (s : State) (cause : Cause) : (s.resync cause).lastPingTime = 0 := rfl
@[simp] theorem State.resync_lastPollTime (s : State) (cause : Cause) : (s.resync cause).lastPollTime = 0 := rfl
@[simp] theorem State.resync_reg (s : State) (cause : Cause) : (s.resync cause).reg = s.reg := rfl
@[simp] theorem State.resync_batchValid (s : State) (cause : Cause) : (s.resync cause).batchValid = s.batchValid := rfl
@[simp] theorem State.resync_batch (s : State) (cause : Cause) : (s.resync cause).batch = s.batch := rfl
@[simp] theorem State.resync_fault (s : State) (cause : Cause) : (s.resync cause).fault = s.fault := rfl
@[simp] theorem State.resync_txOut (s : State) (cause : Cause) : (s.resync cause).txOut = s.txOut := rfl
@[simp] theorem State.resync_evOut (s : State) (cause : Cause) : (s.resync cause).evOut = s.evOut ++ [.resync cause] := rfl
@[simp] theorem State.resync_diagOut (s : State) (cause : Cause) : (s.resync cause).diagOut = s.diagOut := rfl
@[simp] theorem State.resync_cfg (s : State) (cause : Cause) : (s.resync cause).cfg = s.cfg := rfl
@[simp] theorem State.resync_input (s : State) (cause : Cause) : (s.resync cause).input = s.input := rfl
@[simp] theorem State.resync_rxQueue (s : State) (cause : Cause) : (s.resync cause).rxQueue = s.rxQueue := rfl
@[simp] theorem State.resync_resOut (s : State) (cause : Cause) : (s.resync cause).resOut = s.resOut := rfl

/-! ### State.raiseEncodeOverflow -/

@[simp] theorem State.raiseEncodeOverflow_rxState (s : State) (n : Nat) : (s.raiseEncodeOverflow n).rxState = s.rxState := rfl
@[simp] theorem State.raiseEncodeOverflow_rxCount (s : State) (n : Nat) : (s.raiseEncodeOverflow n).rxCount = s.rxCount := rfl
@[simp] theorem State.raiseEncodeOverflow_rxBuf (s : State) (n : Nat) : (s.raiseEncodeOverflow n).rxBuf = s.rxBuf := rfl
@[simp] theorem State.raiseEncodeOverflow_rxLastTime (s : State) (n : Nat) : (s.raiseEncodeOverflow n).rxLastTime = s.rxLastTime := rfl
@[simp] theorem State.raiseEncodeOverflow_framePending (s : State) (n : Nat) : (s.raiseEncodeOverflow n).framePending = s.framePending := rfl
@[simp] theorem State.raiseEncodeOverflow_pendLen (s : State) (n : Nat) : (s.raiseEncodeOverflow n).pendLen = s.pendLen := rfl
@[simp] theorem State.raiseEncodeOverflow_pendBuf (s : State) (n : Nat) : (s.raiseEncodeOverflow n).pendBuf = s.pendBuf := rfl
@[simp] theorem State.raiseEncodeOverflow_txCounter (s : State) (n : Nat) : (s.raiseEncodeOverflow n).txCounter = s.txCounter := rfl
@[simp] theorem State.raiseEncodeOverflow_lastLen (s : State) (n : Nat) : (s.raiseEncodeOverflow n).lastLen = s.lastLen := rfl
@[simp] theorem State.raiseEncodeOverflow_lastBuf (s : State) (n : Nat) : (s.raiseEncodeOverflow n).lastBuf = s.lastBuf := rfl
@[simp] theorem State.raiseEncodeOverflow_lastTxTime (s : State) (n : Nat) : (s.raiseEncodeOverflow n).lastTxTime = s.lastTxTime := rfl
@[simp] theorem State.raiseEncodeOverflow_retryCount (s : State) (n : Nat) : (s.raiseEncodeOverflow n).retryCount = s.retryCount := rfl
@[simp] theorem State.raiseEncodeOverflow_awaiting (s : State) (n : Nat) : (s.raiseEncodeOverflow n).awaiting = s.awaiting := rfl
@[simp] theorem State.raiseEncodeOverflow_sessionId (s : State) (n : Nat) : (s.raiseEncodeOverflow n).sessionId = s.sessionId := rfl
@[simp] theorem State.raiseEncodeOverflow_lastPingTime (s : State) (n : Nat) : (s.raiseEncodeOverflow n).lastPingTime = s.lastPingTime := rfl
@[simp] theorem State.raiseEncodeOverflow_lastPollTime (s : State) (n : Nat) : (s.raiseEncodeOverflow n).lastPollTime = s.lastPollTime := rfl
@[simp] theorem State.raiseEncodeOverflow_reg (s : State) (n : Nat) : (s.raiseEncodeOverflow n).reg = s.reg := rfl
@[simp] theorem State.raiseEncodeOverflow_batchValid (s : State) (n : Nat) : (s.raiseEncodeOverflow n).batchValid = s.batchValid := rfl
@[simp] theorem State.raiseEncodeOverflow_batch (s : State) (n : Nat) : (s.raiseEncodeOverflow n).batch = s.batch := rfl
@[simp] theorem State.raiseEncodeOverflow_fault (s : State) (n : Nat) : (s.raiseEncodeOverflow n).fault = true := rfl
@[simp] theorem State.raiseEncodeOverflow_txOut (s : State) (n : Nat) : (s.raiseEncodeOverflow n).txOut = s.txOut := rfl
@[simp] theorem State.raiseEncodeOverflow_evOut (s : State) (n : Nat) : (s.raiseEncodeOverflow n).evOut = s.evOut := rfl
@[simp] theorem State.raiseEncodeOverflow_diagOut (s : State) (n : Nat) : (s.raiseEncodeOverflow n).diagOut = s.diagOut ++ [.encodeOverflow n] := rfl
@[simp] theorem State.raiseEncodeOverflow_cfg (s : State) (n : Nat) : (s.raiseEncodeOverflow n).cfg = s.cfg := rfl
@[simp] theorem State.raiseEncodeOverflow_input (s : State) (n : Nat) : (s.raiseEncodeOverflow n).input = s.input := rfl
@[simp] theorem State.raiseEncodeOverflow_rxQueue (s : State) (n : Nat) : (s.raiseEncodeOverflow n).rxQueue = s.rxQueue := rfl
@[simp] theorem State.raiseEncodeOverflow_resOut (s : State) (n : Nat) : (s.raiseEncodeOverflow n).resOut = s.resOut ++ [.encodeOverflow] := rfl

/-! ### State.transmit -/

@[simp] theorem State.transmit_rxState (s : State) (f : Bytes) (now : Time) : (s.transmit f now).rxState = s.rxState := rfl
@[simp] theorem State.transmit_rxCount (s : State) (f : Bytes) (now : Time) : (s.transmit f now).rxCount = s.rxCount := rfl
@[simp] theorem State.transmit_rxBuf (s : State) (f : Bytes) (now : Time) : (s.transmit f now).rxBuf = s.rxBuf := rfl
@[simp] theorem State.transmit_rxLastTime (s : State) (f : Bytes) (now : Time) : (s.transmit f now).rxLastTime = s.rxLastTime := rfl
@[simp] theorem State.transmit_framePending (s : State) (f : Bytes) (now : Time) : (s.transmit f now).framePending = s.framePending := rfl
@[simp] theorem State.transmit_pendLen (s : State) (f : Bytes) (now : Time) : (s.transmit f now).pendLen = s.pendLen := rfl
@[simp] theorem State.transmit_pendBuf (s : State) (f : Bytes) (now : Time) : (s.transmit f now).pendBuf = s.pendBuf := rfl
@[simp] theorem State.transmit_txCounter (s : State) (f : Bytes) (now : Time) : (s.transmit f now).txCounter = s.txCounter := rfl
@[simp] theorem State.transmit_lastLen (s : State) (f : Bytes) (now : Time) : (s.transmit f now).lastLen = Count.ofNat f.length := rfl
@[simp] theorem State.transmit_lastBuf (s : State) (f : Bytes) (now : Time) : (s.transmit f now).lastBuf = s.lastBuf.store 0 f := rfl
@[simp] theorem State.transmit_lastTxTime (s : State) (f : Bytes) (now : Time) : (s.transmit f now).lastTxTime = now := rfl
@[simp] theorem State.transmit_retryCount (s : State) (f : Bytes) (now : Time) : (s.transmit f now).retryCount = s.retryCount := rfl
@[simp] theorem State.transmit_awaiting (s : State) (f : Bytes) (now : Time) : (s.transmit f now).awaiting = s.awaiting := rfl
@[simp] theorem State.transmit_sessionId (s : State) (f : Bytes) (now : Time) : (s.transmit f now).sessionId = s.sessionId := rfl
@[simp] theorem State.transmit_lastPingTime (s : State) (f : Bytes) (now : Time) : (s.transmit f now).lastPingTime = s.lastPingTime := rfl
@[simp] theorem State.transmit_lastPollTime (s : State) (f : Bytes) (now : Time) : (s.transmit f now).lastPollTime = s.lastPollTime := rfl
@[simp] theorem State.transmit_reg (s : State) (f : Bytes) (now : Time) : (s.transmit f now).reg = s.reg := rfl
@[simp] theorem State.transmit_batchValid (s : State) (f : Bytes) (now : Time) : (s.transmit f now).batchValid = s.batchValid := rfl
@[simp] theorem State.transmit_batch (s : State) (f : Bytes) (now : Time) : (s.transmit f now).batch = s.batch := rfl
@[simp] theorem State.transmit_fault (s : State) (f : Bytes) (now : Time) : (s.transmit f now).fault = s.fault := rfl
@[simp] theorem State.transmit_txOut (s : State) (f : Bytes) (now : Time) : (s.transmit f now).txOut = s.txOut ++ [f] := rfl
@[simp] theorem State.transmit_evOut (s : State) (f : Bytes) (now : Time) : (s.transmit f now).evOut = s.evOut := rfl
@[simp] theorem State.transmit_diagOut (s : State) (f : Bytes) (now : Time) : (s.transmit f now).diagOut = s.diagOut := rfl
@[simp] theorem State.transmit_cfg (s : State) (f : Bytes) (now : Time) : (s.transmit f now).cfg = s.cfg := rfl
@[simp] theorem State.transmit_input (s : State) (f : Bytes) (now : Time) : (s.transmit f now).input = s.input := rfl
@[simp] theorem State.transmit_rxQueue (s : State) (f : Bytes) (now : Time) : (s.transmit f now).rxQueue = s.rxQueue := rfl
@[simp] theorem State.transmit_resOut (s : State) (f : Bytes) (now : Time) : (s.transmit f now).resOut = s.resOut := rfl

/-! ### State.expectResponse -/

@[simp] theorem State.expectResponse_rxState (s : State) : s.expectResponse.rxState = s.rxState := rfl
@[simp] theorem State.expectResponse_rxCount (s : State) : s.expectResponse.rxCount = s.rxCount := rfl
@[simp] theorem State.expectResponse_rxBuf (s : State) : s.expectResponse.rxBuf = s.rxBuf := rfl
@[simp] theorem State.expectResponse_rxLastTime (s : State) : s.expectResponse.rxLastTime = s.rxLastTime := rfl
@[simp] theorem State.expectResponse_framePending (s : State) : s.expectResponse.framePending = s.framePending := rfl
@[simp] theorem State.expectResponse_pendLen (s : State) : s.expectResponse.pendLen = s.pendLen := rfl
@[simp] theorem State.expectResponse_pendBuf (s : State) : s.expectResponse.pendBuf = s.pendBuf := rfl
@[simp] theorem State.expectResponse_txCounter (s : State) : s.expectResponse.txCounter = s.txCounter := rfl
@[simp] theorem State.expectResponse_lastLen (s : State) : s.expectResponse.lastLen = s.lastLen := rfl
@[simp] theorem State.expectResponse_lastBuf (s : State) : s.expectResponse.lastBuf = s.lastBuf := rfl
@[simp] theorem State.expectResponse_lastTxTime (s : State) : s.expectResponse.lastTxTime = s.lastTxTime := rfl
@[simp] theorem State.expectResponse_retryCount (s : State) : s.expectResponse.retryCount = 0 := rfl
@[simp] theorem State.expectResponse_awaiting (s : State) : s.expectResponse.awaiting = true := rfl
@[simp] theorem State.expectResponse_sessionId (s : State) : s.expectResponse.sessionId = s.sessionId := rfl
@[simp] theorem State.expectResponse_lastPingTime (s : State) : s.expectResponse.lastPingTime = s.lastPingTime := rfl
@[simp] theorem State.expectResponse_lastPollTime (s : State) : s.expectResponse.lastPollTime = s.lastPollTime := rfl
@[simp] theorem State.expectResponse_reg (s : State) : s.expectResponse.reg = s.reg := rfl
@[simp] theorem State.expectResponse_batchValid (s : State) : s.expectResponse.batchValid = s.batchValid := rfl
@[simp] theorem State.expectResponse_batch (s : State) : s.expectResponse.batch = s.batch := rfl
@[simp] theorem State.expectResponse_fault (s : State) : s.expectResponse.fault = s.fault := rfl
@[simp] theorem State.expectResponse_txOut (s : State) : s.expectResponse.txOut = s.txOut := rfl
@[simp] theorem State.expectResponse_evOut (s : State) : s.expectResponse.evOut = s.evOut := rfl
@[simp] theorem State.expectResponse_diagOut (s : State) : s.expectResponse.diagOut = s.diagOut := rfl
@[simp] theorem State.expectResponse_cfg (s : State) : s.expectResponse.cfg = s.cfg := rfl
@[simp] theorem State.expectResponse_input (s : State) : s.expectResponse.input = s.input := rfl
@[simp] theorem State.expectResponse_rxQueue (s : State) : s.expectResponse.rxQueue = s.rxQueue := rfl
@[simp] theorem State.expectResponse_resOut (s : State) : s.expectResponse.resOut = s.resOut := rfl

/-! ### openFrame -/

@[simp] theorem openFrame_rxState (s : State) (b : Byte) : (openFrame b s).rxState = .accum := rfl
@[simp] theorem openFrame_rxCount (s : State) (b : Byte) : (openFrame b s).rxCount = 1 := rfl
@[simp] theorem openFrame_rxBuf (s : State) (b : Byte) : (openFrame b s).rxBuf = s.rxBuf.write 0 b := rfl
@[simp] theorem openFrame_rxLastTime (s : State) (b : Byte) : (openFrame b s).rxLastTime = s.rxLastTime := rfl
@[simp] theorem openFrame_framePending (s : State) (b : Byte) : (openFrame b s).framePending = s.framePending := rfl
@[simp] theorem openFrame_pendLen (s : State) (b : Byte) : (openFrame b s).pendLen = s.pendLen := rfl
@[simp] theorem openFrame_pendBuf (s : State) (b : Byte) : (openFrame b s).pendBuf = s.pendBuf := rfl
@[simp] theorem openFrame_txCounter (s : State) (b : Byte) : (openFrame b s).txCounter = s.txCounter := rfl
@[simp] theorem openFrame_lastLen (s : State) (b : Byte) : (openFrame b s).lastLen = s.lastLen := rfl
@[simp] theorem openFrame_lastBuf (s : State) (b : Byte) : (openFrame b s).lastBuf = s.lastBuf := rfl
@[simp] theorem openFrame_lastTxTime (s : State) (b : Byte) : (openFrame b s).lastTxTime = s.lastTxTime := rfl
@[simp] theorem openFrame_retryCount (s : State) (b : Byte) : (openFrame b s).retryCount = s.retryCount := rfl
@[simp] theorem openFrame_awaiting (s : State) (b : Byte) : (openFrame b s).awaiting = s.awaiting := rfl
@[simp] theorem openFrame_sessionId (s : State) (b : Byte) : (openFrame b s).sessionId = s.sessionId := rfl
@[simp] theorem openFrame_lastPingTime (s : State) (b : Byte) : (openFrame b s).lastPingTime = s.lastPingTime := rfl
@[simp] theorem openFrame_lastPollTime (s : State) (b : Byte) : (openFrame b s).lastPollTime = s.lastPollTime := rfl
@[simp] theorem openFrame_reg (s : State) (b : Byte) : (openFrame b s).reg = s.reg := rfl
@[simp] theorem openFrame_batchValid (s : State) (b : Byte) : (openFrame b s).batchValid = s.batchValid := rfl
@[simp] theorem openFrame_batch (s : State) (b : Byte) : (openFrame b s).batch = s.batch := rfl
@[simp] theorem openFrame_fault (s : State) (b : Byte) : (openFrame b s).fault = s.fault := rfl
@[simp] theorem openFrame_txOut (s : State) (b : Byte) : (openFrame b s).txOut = s.txOut := rfl
@[simp] theorem openFrame_evOut (s : State) (b : Byte) : (openFrame b s).evOut = s.evOut := rfl
@[simp] theorem openFrame_diagOut (s : State) (b : Byte) : (openFrame b s).diagOut = s.diagOut := rfl
@[simp] theorem openFrame_cfg (s : State) (b : Byte) : (openFrame b s).cfg = s.cfg := rfl
@[simp] theorem openFrame_input (s : State) (b : Byte) : (openFrame b s).input = s.input := rfl
@[simp] theorem openFrame_rxQueue (s : State) (b : Byte) : (openFrame b s).rxQueue = s.rxQueue := rfl
@[simp] theorem openFrame_resOut (s : State) (b : Byte) : (openFrame b s).resOut = s.resOut := rfl

/-! ### rxRelease -/

@[simp] theorem rxRelease_rxState (s : State) : (rxRelease s).rxState = s.rxState := rfl
@[simp] theorem rxRelease_rxCount (s : State) : (rxRelease s).rxCount = s.rxCount := rfl
@[simp] theorem rxRelease_rxBuf (s : State) : (rxRelease s).rxBuf = s.rxBuf := rfl
@[simp] theorem rxRelease_rxLastTime (s : State) : (rxRelease s).rxLastTime = s.rxLastTime := rfl
@[simp] theorem rxRelease_framePending (s : State) : (rxRelease s).framePending = false := rfl
@[simp] theorem rxRelease_pendLen (s : State) : (rxRelease s).pendLen = s.pendLen := rfl
@[simp] theorem rxRelease_pendBuf (s : State) : (rxRelease s).pendBuf = s.pendBuf := rfl
@[simp] theorem rxRelease_txCounter (s : State) : (rxRelease s).txCounter = s.txCounter := rfl
@[simp] theorem rxRelease_lastLen (s : State) : (rxRelease s).lastLen = s.lastLen := rfl
@[simp] theorem rxRelease_lastBuf (s : State) : (rxRelease s).lastBuf = s.lastBuf := rfl
@[simp] theorem rxRelease_lastTxTime (s : State) : (rxRelease s).lastTxTime = s.lastTxTime := rfl
@[simp] theorem rxRelease_retryCount (s : State) : (rxRelease s).retryCount = s.retryCount := rfl
@[simp] theorem rxRelease_awaiting (s : State) : (rxRelease s).awaiting = s.awaiting := rfl
@[simp] theorem rxRelease_sessionId (s : State) : (rxRelease s).sessionId = s.sessionId := rfl
@[simp] theorem rxRelease_lastPingTime (s : State) : (rxRelease s).lastPingTime = s.lastPingTime := rfl
@[simp] theorem rxRelease_lastPollTime (s : State) : (rxRelease s).lastPollTime = s.lastPollTime := rfl
@[simp] theorem rxRelease_reg (s : State) : (rxRelease s).reg = s.reg := rfl
@[simp] theorem rxRelease_batchValid (s : State) : (rxRelease s).batchValid = s.batchValid := rfl
@[simp] theorem rxRelease_batch (s : State) : (rxRelease s).batch = s.batch := rfl
@[simp] theorem rxRelease_fault (s : State) : (rxRelease s).fault = s.fault := rfl
@[simp] theorem rxRelease_txOut (s : State) : (rxRelease s).txOut = s.txOut := rfl
@[simp] theorem rxRelease_evOut (s : State) : (rxRelease s).evOut = s.evOut := rfl
@[simp] theorem rxRelease_diagOut (s : State) : (rxRelease s).diagOut = s.diagOut := rfl
@[simp] theorem rxRelease_cfg (s : State) : (rxRelease s).cfg = s.cfg := rfl
@[simp] theorem rxRelease_input (s : State) : (rxRelease s).input = s.input := rfl
@[simp] theorem rxRelease_rxQueue (s : State) : (rxRelease s).rxQueue = s.rxQueue := rfl
@[simp] theorem rxRelease_resOut (s : State) : (rxRelease s).resOut = s.resOut := rfl

/-! ### retransmit -/

@[simp] theorem retransmit_rxState (s : State) (now : Time) : (retransmit now s).rxState = s.rxState := rfl
@[simp] theorem retransmit_rxCount (s : State) (now : Time) : (retransmit now s).rxCount = s.rxCount := rfl
@[simp] theorem retransmit_rxBuf (s : State) (now : Time) : (retransmit now s).rxBuf = s.rxBuf := rfl
@[simp] theorem retransmit_rxLastTime (s : State) (now : Time) : (retransmit now s).rxLastTime = s.rxLastTime := rfl
@[simp] theorem retransmit_framePending (s : State) (now : Time) : (retransmit now s).framePending = s.framePending := rfl
@[simp] theorem retransmit_pendLen (s : State) (now : Time) : (retransmit now s).pendLen = s.pendLen := rfl
@[simp] theorem retransmit_pendBuf (s : State) (now : Time) : (retransmit now s).pendBuf = s.pendBuf := rfl
@[simp] theorem retransmit_txCounter (s : State) (now : Time) : (retransmit now s).txCounter = s.txCounter := rfl
@[simp] theorem retransmit_lastLen (s : State) (now : Time) : (retransmit now s).lastLen = s.lastLen := rfl
@[simp] theorem retransmit_lastBuf (s : State) (now : Time) : (retransmit now s).lastBuf = s.lastBuf := rfl
@[simp] theorem retransmit_lastTxTime (s : State) (now : Time) : (retransmit now s).lastTxTime = now := rfl
@[simp] theorem retransmit_retryCount (s : State) (now : Time) : (retransmit now s).retryCount = s.retryCount + 1 := rfl
@[simp] theorem retransmit_awaiting (s : State) (now : Time) : (retransmit now s).awaiting = s.awaiting := rfl
@[simp] theorem retransmit_sessionId (s : State) (now : Time) : (retransmit now s).sessionId = s.sessionId := rfl
@[simp] theorem retransmit_lastPingTime (s : State) (now : Time) : (retransmit now s).lastPingTime = s.lastPingTime := rfl
@[simp] theorem retransmit_lastPollTime (s : State) (now : Time) : (retransmit now s).lastPollTime = s.lastPollTime := rfl
@[simp] theorem retransmit_reg (s : State) (now : Time) : (retransmit now s).reg = s.reg := rfl
@[simp] theorem retransmit_batchValid (s : State) (now : Time) : (retransmit now s).batchValid = s.batchValid := rfl
@[simp] theorem retransmit_batch (s : State) (now : Time) : (retransmit now s).batch = s.batch := rfl
@[simp] theorem retransmit_fault (s : State) (now : Time) : (retransmit now s).fault = s.fault := rfl
@[simp] theorem retransmit_txOut (s : State) (now : Time) : (retransmit now s).txOut = s.txOut ++ [s.lastFrame] := rfl
@[simp] theorem retransmit_evOut (s : State) (now : Time) : (retransmit now s).evOut = s.evOut := rfl
@[simp] theorem retransmit_diagOut (s : State) (now : Time) : (retransmit now s).diagOut = s.diagOut ++ [.timeout (s.retryCount + 1)] := rfl
@[simp] theorem retransmit_cfg (s : State) (now : Time) : (retransmit now s).cfg = s.cfg := rfl
@[simp] theorem retransmit_input (s : State) (now : Time) : (retransmit now s).input = s.input := rfl
@[simp] theorem retransmit_rxQueue (s : State) (now : Time) : (retransmit now s).rxQueue = s.rxQueue := rfl
@[simp] theorem retransmit_resOut (s : State) (now : Time) : (retransmit now s).resOut = s.resOut := rfl

end Sys2Proof.Machine
end

