-- ==== Sys2Proof/Laws/Receiver.lean ====
section
/-! SUPPORT. What one received byte and one drain can do, said once. -/

namespace Sys2Proof.Machine

/-- The gap check as one record update (R142, R147). -/
theorem gapCheck_eq (now : Time) (s : State) : gapCheck now s =
    { s with
      rxState := stateAfterGap s.cfg s.rxContext now
      rxCount := if s.interByteTimeout now then 0 else s.rxCount
      diagOut := if s.interByteTimeout now then s.diagOut ++ [.gap s.rxCount] else s.diagOut
      rxLastTime := now } := by
  unfold gapCheck stateAfterGap State.interByteTimeout
  by_cases h : gapFires s.cfg s.rxContext now = true
  · simp only [h, if_true]; rfl
  · simp only [h, if_false, Bool.false_eq_true]; rfl

/-- With no partial frame, or within the inter-byte timeout, the gap check only takes the time. -/
theorem gapCheck_of_no_timeout {now : Time} {s : State} (h : s.interByteTimeout now = false) :
    gapCheck now s = { s with rxLastTime := now } := by
  simp [gapCheck, h]

theorem gapCheck_of_timeout {now : Time} {s : State} (h : s.interByteTimeout now = true) :
    gapCheck now s =
      { s with rxState := .idle, rxCount := 0, diagOut := s.diagOut ++ [.gap s.rxCount], rxLastTime := now } := by
  simp only [gapCheck, h, if_true]; rfl

theorem interByteTimeout_of_idle {now : Time} {s : State} (h : s.rxState = .idle) : s.interByteTimeout now = false := by
  simp [State.interByteTimeout, State.rxContext, gapFires, h]

theorem interByteTimeout_of_accum {now : Time} {s : State} (h : s.rxState = .accum) :
    s.interByteTimeout now = decide (s.cfg.tInterbyte.toNat < (elapsed now s.rxLastTime).toNat) := by
  simp [State.interByteTimeout, State.rxContext, gapFires, h]

@[simp] theorem gapCheck_framePending (now : Time) (s : State) : (gapCheck now s).framePending = s.framePending := by
  rw [gapCheck_eq]
@[simp] theorem gapCheck_cfg (now : Time) (s : State) : (gapCheck now s).cfg = s.cfg := by rw [gapCheck_eq]
@[simp] theorem gapCheck_rxBuf (now : Time) (s : State) : (gapCheck now s).rxBuf = s.rxBuf := by rw [gapCheck_eq]
@[simp] theorem gapCheck_rxLastTime (now : Time) (s : State) : (gapCheck now s).rxLastTime = now := by rw [gapCheck_eq]
@[simp] theorem gapCheck_rxQueue (now : Time) (s : State) : (gapCheck now s).rxQueue = s.rxQueue := by rw [gapCheck_eq]
@[simp] theorem gapCheck_connection (now : Time) (s : State) : (gapCheck now s).connection = s.connection := by
  rw [gapCheck_eq]; rfl

/-- The class of a byte is `data` exactly in ACCUM. -/
theorem rxClass_eq_data_iff (s : State) (b : Byte) : s.rxClass b = .data ↔ s.rxState = .accum := by
  unfold State.rxClass classify
  cases s.rxState with
  | idle => simp; split <;> [simp; (split <;> simp)]
  | accum => simp

theorem rxClass_idle {s : State} (h : s.rxState = .idle) (b : Byte) : s.rxClass b =
    if b = s.cfg.startMarker then .start else if b = s.cfg.resyncMarker then .resync else .noise := by
  simp [State.rxClass, classify, h]

/-- What appending a byte leads to: the length guard, a bad checksum, a latched frame, or one more byte (R148 to R150). -/
theorem afterAppend_cases (s : State) :
    ((s.rxCount : Nat) = 6 ∧ Config.cap < frameTotal (s.rxBuf.read 5) ∧
      afterAppend s = (s.diag (.oversize (s.rxBuf.read 5))).receiverReset) ∨
    (7 ≤ (s.rxCount : Nat) ∧ (s.rxCount : Nat) = frameTotal (s.rxBuf.read 5) ∧
      afterAppend s = completeFrame s) ∨
    (((s.rxCount : Nat) = 6 → frameTotal (s.rxBuf.read 5) ≤ Config.cap) ∧
      (7 ≤ (s.rxCount : Nat) → (s.rxCount : Nat) ≠ frameTotal (s.rxBuf.read 5)) ∧ afterAppend s = s) := by
  unfold afterAppend
  dsimp only
  split
  · next h => exact .inl ⟨h.1, h.2, rfl⟩
  · next h =>
    split
    · next h' => exact .inr (.inl ⟨h'.1, h'.2, rfl⟩)
    · next h' => exact .inr (.inr ⟨fun h6 => by by_contra hc; exact h ⟨h6, by omega⟩, fun h7 he => h' ⟨h7, he⟩, rfl⟩)

/-- What the last byte of a frame leads to (R149, R150). -/
theorem completeFrame_cases (s : State) :
    (cksum (s.rxBuf.slice 0 (s.rxCount - 1)) ≠ s.rxBuf.read (s.rxCount - 1) ∧
      completeFrame s = { s with
        rxState := .idle
        rxCount := 0
        diagOut := s.diagOut ++
          [.cksum (cksum (s.rxBuf.slice 0 (s.rxCount - 1))) (s.rxBuf.read (s.rxCount - 1))] }) ∨
    (cksum (s.rxBuf.slice 0 (s.rxCount - 1)) = s.rxBuf.read (s.rxCount - 1) ∧
      completeFrame s = { s with
        rxState := .idle
        rxCount := 0
        pendBuf := s.pendBuf.store 0 (s.rxBuf.slice 0 s.rxCount)
        pendLen := s.rxCount
        framePending := true
        awaiting := awaitingAfterFrame s.awaiting (s.rxBuf.read 3) }) := by
  unfold completeFrame
  dsimp only
  split
  · next h => exact .inl ⟨h, rfl⟩
  · next h => exact .inr ⟨by simpa using h, rfl⟩

theorem accumulate_of_lt {s : State} (h : (s.rxCount : Nat) < Config.cap) (b : Byte) :
    accumulate b s = .next (afterAppend { s with
      rxBuf := s.rxBuf.write s.rxCount b
      rxCount := ⟨s.rxCount + 1, Nat.succ_lt_succ h⟩ }) := by
  unfold accumulate; rw [dif_pos h]

theorem accumulate_of_not_lt {s : State} (h : ¬ (s.rxCount : Nat) < Config.cap) (b : Byte) :
    accumulate b s = .fault .bufferOverrun := by
  unfold accumulate; rw [dif_neg h]

/-- Everything RX_BYTE can do (R141): refuse, or run the one row its byte falls under after the gap check. -/
theorem rxByte_cases (b : Byte) (now : Time) (s : State) :
    (s.framePending = true ∧ rxByte b now s = .refused .rxWhileFramePending) ∨
    s.framePending = false ∧
      (((gapCheck now s).rxState = .idle ∧ b = s.cfg.startMarker ∧
          rxByte b now s = .next (openFrame b (gapCheck now s))) ∨
        ((gapCheck now s).rxState = .idle ∧ b ≠ s.cfg.startMarker ∧ b = s.cfg.resyncMarker ∧
          rxByte b now s = .next ((gapCheck now s).resync .marker)) ∨
        ((gapCheck now s).rxState = .idle ∧ b ≠ s.cfg.startMarker ∧ b ≠ s.cfg.resyncMarker ∧
          rxByte b now s = .next (dropNoise b (gapCheck now s))) ∨
        ((gapCheck now s).rxState = .accum ∧ rxByte b now s = accumulate b (gapCheck now s))) := by
  unfold rxByte
  cases hp : s.framePending with
  | true => exact .inl ⟨rfl, rfl⟩
  | false =>
    refine .inr ⟨rfl, ?_⟩
    simp only [Bool.false_eq_true, if_false]
    cases hs : (gapCheck now s).rxState with
    | accum =>
      rw [(rxClass_eq_data_iff _ b).2 hs]
      exact .inr (.inr (.inr ⟨rfl, rfl⟩))
    | idle =>
      rw [rxClass_idle hs, gapCheck_cfg]
      by_cases h1 : b = s.cfg.startMarker
      · simp [h1]
      · by_cases h2 : b = s.cfg.resyncMarker
        · rw [if_neg h1, if_pos h2]; exact .inr (.inl ⟨rfl, h1, h2, rfl⟩)
        · rw [if_neg h1, if_neg h2]; exact .inr (.inr (.inl ⟨rfl, h1, h2, rfl⟩))

/-- RX_BYTE refuses only under backpressure (R152). -/
theorem rxByte_refused_iff (b : Byte) (now : Time) (s : State) (r : Refusal) :
    rxByte b now s = .refused r ↔ s.framePending = true ∧ r = .rxWhileFramePending := by
  rcases rxByte_cases b now s with ⟨hp, h⟩ | ⟨hp, ⟨_, _, h⟩ | ⟨_, _, _, h⟩ | ⟨_, _, _, h⟩ | ⟨_, h⟩⟩ <;> rw [h, hp]
  · simp [eq_comm]
  · simp
  · simp
  · simp
  · unfold accumulate; split <;> simp

@[simp] theorem rxDrain_nil (s : State) : rxDrain [] s = .next s := rfl

theorem rxDrain_pending {s : State} (h : s.framePending = true) (times : List Time) : rxDrain times s = .next s := by
  cases times <;> simp [rxDrain, h]

theorem rxDrain_empty {s : State} (h : s.rxQueue = []) (times : List Time) : rxDrain times s = .next s := by
  cases times with
  | nil => rfl
  | cons t ts => unfold rxDrain; simp only [h]; split <;> rfl

theorem rxDrain_cons {s : State} {b : Byte} {waiting : Bytes} (hp : s.framePending = false) (hq : s.rxQueue = b :: waiting)
    (now : Time) (later : List Time) :
    rxDrain (now :: later) s = andThen (rxByte b now { s with rxQueue := waiting }) (rxDrain later) := by
  rw [rxDrain]; simp [hp, hq]

@[simp] theorem andThen_next (s : State) (f : State → Outcome) : andThen (.next s) f = f s := rfl
@[simp] theorem andThen_fault (r : Fault) (f : State → Outcome) : andThen (.fault r) f = .fault r := rfl
@[simp] theorem andThen_refused (r : Refusal) (f : State → Outcome) : andThen (.refused r) f = .refused r := rfl

theorem andThen_eq_next {o : Outcome} {f : State → Outcome} {t : State} :
    andThen o f = .next t ↔ ∃ u, o = .next u ∧ f u = .next t := by
  cases o <;> simp [andThen]

/-- A drain keeps what every received byte keeps. -/
theorem rxDrain_induct {P : State → Prop}
    (hbyte : ∀ s b rest now t, P s → s.framePending = false → s.rxQueue = b :: rest →
      rxByte b now { s with rxQueue := rest } = .next t → P t)
    {times : List Time} {s t : State} (hs : P s) (h : rxDrain times s = .next t) : P t := by
  induction times generalizing s with
  | nil => cases h; exact hs
  | cons now later ih =>
    cases hp : s.framePending with
    | true => rw [rxDrain_pending hp] at h; cases h; exact hs
    | false =>
      cases hq : s.rxQueue with
      | nil => rw [rxDrain_empty hq] at h; cases h; exact hs
      | cons b rest =>
        rw [rxDrain_cons hp hq, andThen_eq_next] at h
        obtain ⟨u, hu, h⟩ := h
        exact ih (hbyte s b rest now u hs hp hq hu) h

/-! ## The cases of RX_BYTE -/

/-- RX_BYTE with no frame pending, as one choice by the byte's row (R141). -/
theorem rxByte_eq_case (b : Byte) (now : Time) {s : State} (hp : s.framePending = false) : rxByte b now s =
    match (gapCheck now s).rxClass b with
    | .start => .next (openFrame b (gapCheck now s))
    | .resync => .next ((gapCheck now s).resync .marker)
    | .noise => .next (dropNoise b (gapCheck now s))
    | .data => accumulate b (gapCheck now s) := by
  unfold rxByte; rw [hp]; rfl

theorem classify_stateAfterGap (b : Byte) (now : Time) (s : State) :
    classify s.cfg (stateAfterGap s.cfg s.rxContext now) b = (gapCheck now s).rxClass b := by
  rw [gapCheck_eq]; rfl

/-! ## Bytes that the client feeds directly -/

theorem inStreamOrder_iff (s : State) (b : Byte) :
    s.inStreamOrder b = true ↔ s.rxQueue = [] ∨ ∃ waiting, s.rxQueue = b :: waiting := by
  unfold State.inStreamOrder
  cases s.rxQueue <;> simp

theorem takeByte_of_nil {s : State} (h : s.rxQueue = []) : s.takeByte = s := by
  unfold State.takeByte
  rw [h, List.tail_nil, ← h]

/-- Everything a directly fed byte can meet: backpressure (R152), a waiting byte that it would overtake (R247), or `feed`
on the state without the byte. -/
theorem feedByte_cases (b : Byte) (feed : State → Outcome) (s : State) :
    (s.framePending = true ∧ feedByte b feed s = .refused .rxWhileFramePending) ∨
    (s.framePending = false ∧ s.inStreamOrder b = false ∧ feedByte b feed s = .refused .rxOutOfStreamOrder) ∨
    (s.framePending = false ∧ s.inStreamOrder b = true ∧ feedByte b feed s = feed s.takeByte) := by
  unfold feedByte
  split
  · next h => exact .inl ⟨h, rfl⟩
  · next h =>
    split
    · next h' => exact .inr (.inr ⟨by simpa using h, h', rfl⟩)
    · next h' => exact .inr (.inl ⟨by simpa using h, by simpa using h', rfl⟩)

theorem feedByte_inStreamOrder {b : Byte} {s : State} (hp : s.framePending = false) (hq : s.inStreamOrder b = true)
    (feed : State → Outcome) : feedByte b feed s = feed s.takeByte := by
  simp [feedByte, hp, hq]

theorem exec_rxByte_next {b : Byte} {now : Time} {s t : State} (h : exec (.rxByte b now) s = .next t) :
    s.inStreamOrder b = true ∧ rxByte b now s.takeByte = .next t := by
  simp only [exec, execRxByte] at h
  rcases feedByte_cases b (rxByte b now) s with ⟨_, e⟩ | ⟨_, _, e⟩ | ⟨_, hq, e⟩ <;> rw [e] at h
  · cases h
  · cases h
  · exact ⟨hq, h⟩

theorem rxCase_cases (k : RxClass) (b : Byte) (now : Time) (arm : State → Outcome) (s : State) :
    (s.framePending = true ∧ rxCase k b now arm s = .refused .rxWhileFramePending) ∨
    (s.framePending = false ∧ s.inStreamOrder b = false ∧ rxCase k b now arm s = .refused .rxOutOfStreamOrder) ∨
    (s.framePending = false ∧ s.inStreamOrder b = true ∧ (gapCheck now s.takeByte).rxClass b ≠ k ∧
      rxCase k b now arm s = .refused .rxCaseDoesNotApply) ∨
    (s.framePending = false ∧ s.inStreamOrder b = true ∧ (gapCheck now s.takeByte).rxClass b = k ∧
      rxCase k b now arm s = arm (gapCheck now s.takeByte)) := by
  unfold rxCase
  rcases feedByte_cases b (fun s => if (gapCheck now s).rxClass b = k then arm (gapCheck now s)
    else .refused .rxCaseDoesNotApply) s with ⟨hp, e⟩ | ⟨hp, hq, e⟩ | ⟨hp, hq, e⟩
  · exact .inl ⟨hp, e⟩
  · exact .inr (.inl ⟨hp, hq, e⟩)
  · refine .inr (.inr ?_)
    rw [e]
    by_cases hk : (gapCheck now s.takeByte).rxClass b = k
    · exact .inr ⟨hp, hq, hk, if_pos hk⟩
    · exact .inl ⟨hp, hq, hk, if_neg hk⟩

/-- Where a case of RX_BYTE has a meaning it does what RX_BYTE does. -/
theorem exec_rxClass_next {k : RxClass} {b : Byte} {now : Time} {s t : State}
    (h : exec (k.toInstr b now) s = .next t) : exec (.rxByte b now) s = .next t := by
  have key : ∀ hp : s.framePending = false, s.inStreamOrder b = true →
      exec (.rxByte b now) s = rxByte b now s.takeByte := fun hp hq => feedByte_inStreamOrder hp hq _
  cases k <;> simp only [RxClass.toInstr, exec, execRxStart, execRxResync, execRxNoise, execRxData] at h
  all_goals
    rcases rxCase_cases _ b now _ s with ⟨_, e⟩ | ⟨_, _, e⟩ | ⟨_, _, _, e⟩ | ⟨hp, hq, hk, e⟩ <;> rw [e] at h
    · cases h
    · cases h
    · cases h
    · rw [key hp hq, rxByte_eq_case _ _ (s := s.takeByte) hp, hk]; exact h

/-! ## What one received byte leaves alone -/

/-- What neither completing a frame nor one more byte of it touches. -/
structure ReceiverFrame (s t : State) : Prop where
  txOut : t.txOut = s.txOut
  evOut : s.evOut <+: t.evOut
  diagOut : s.diagOut <+: t.diagOut
  reg : t.reg = s.reg
  batch : t.batch = s.batch
  batchValid : t.batchValid = s.batchValid
  fault : t.fault = s.fault
  cfg : t.cfg = s.cfg
  rxQueue : t.rxQueue = s.rxQueue
  rxLastTime : t.rxLastTime = s.rxLastTime

theorem afterAppend_receiverFrame (s : State) : ReceiverFrame s (afterAppend s) := by
  rcases afterAppend_cases s with ⟨_, _, e⟩ | ⟨_, _, e⟩ | ⟨_, _, e⟩ <;> rw [e]
  · exact ⟨rfl, List.prefix_refl _, List.prefix_append _ _, rfl, rfl, rfl, rfl, rfl, rfl, rfl⟩
  · rcases completeFrame_cases s with ⟨_, e⟩ | ⟨_, e⟩ <;> rw [e]
    · exact ⟨rfl, List.prefix_refl _, List.prefix_append _ _, rfl, rfl, rfl, rfl, rfl, rfl, rfl⟩
    · exact ⟨rfl, List.prefix_refl _, List.prefix_refl _, rfl, rfl, rfl, rfl, rfl, rfl, rfl⟩
  · exact ⟨rfl, List.prefix_refl _, List.prefix_refl _, rfl, rfl, rfl, rfl, rfl, rfl, rfl⟩

theorem afterAppend_evOut (s : State) : (afterAppend s).evOut = s.evOut := by
  rcases afterAppend_cases s with ⟨_, _, e⟩ | ⟨_, _, e⟩ | ⟨_, _, e⟩ <;> rw [e]
  · rfl
  · rcases completeFrame_cases s with ⟨_, e⟩ | ⟨_, e⟩ <;> rw [e]

/-- RX_BYTE writes nothing to the link and touches neither the registry nor the fault; it records its time (R141, R147). -/
theorem rxByte_receiverFrame {b : Byte} {now : Time} {s t : State} (h : rxByte b now s = .next t) :
    ReceiverFrame { s with rxLastTime := now } t := by
  have hg : ReceiverFrame { s with rxLastTime := now } (gapCheck now s) := by
    unfold gapCheck
    split
    · exact ⟨rfl, List.prefix_refl _, List.prefix_append _ _, rfl, rfl, rfl, rfl, rfl, rfl, rfl⟩
    · exact ⟨rfl, List.prefix_refl _, List.prefix_refl _, rfl, rfl, rfl, rfl, rfl, rfl, rfl⟩
  have trans : ∀ u, ReceiverFrame (gapCheck now s) u → ReceiverFrame { s with rxLastTime := now } u := fun u hu =>
    ⟨hu.1.trans hg.1, hg.2.trans hu.2, hg.3.trans hu.3, hu.4.trans hg.4, hu.5.trans hg.5, hu.6.trans hg.6,
      hu.7.trans hg.7, hu.8.trans hg.8, hu.9.trans hg.9, hu.10.trans hg.10⟩
  apply trans
  rcases rxByte_cases b now s with ⟨_, e⟩ | ⟨_, ⟨_, _, e⟩ | ⟨_, _, _, e⟩ | ⟨_, _, _, e⟩ | ⟨_, e⟩⟩ <;> rw [e] at h
  · cases h
  · cases h; exact ⟨rfl, List.prefix_refl _, List.prefix_refl _, rfl, rfl, rfl, rfl, rfl, rfl, rfl⟩
  · cases h; exact ⟨rfl, List.prefix_append _ _, List.prefix_refl _, rfl, rfl, rfl, rfl, rfl, rfl, rfl⟩
  · cases h; exact ⟨rfl, List.prefix_refl _, List.prefix_append _ _, rfl, rfl, rfl, rfl, rfl, rfl, rfl⟩
  · unfold accumulate at h
    split at h
    · cases h
      next hc =>
      have ha := afterAppend_receiverFrame { gapCheck now s with
        rxBuf := (gapCheck now s).rxBuf.write (gapCheck now s).rxCount b
        rxCount := ⟨(gapCheck now s).rxCount + 1, Nat.succ_lt_succ hc⟩ }
      exact ⟨ha.1, ha.2, ha.3, ha.4, ha.5, ha.6, ha.7, ha.8, ha.9, ha.10⟩
    · cases h

end Sys2Proof.Machine
end

