-- ==== Sys2Proof/Laws/Registry.lean ====
section
/-! SUPPORT. What the lookup, the validation and application of a batch, and the parse loop can do. -/

namespace Sys2Proof.Machine

/-! ## Lookup (R66) -/

theorem lookup_some {reg : List RegEntry} {id : ParamId} {i : Nat} (h : lookup reg id = some i) :
    ∃ e, reg[i]? = some e ∧ e.id = id := by
  induction reg generalizing i with
  | nil => cases h
  | cons e rest ih =>
    unfold lookup at h
    split at h
    · cases h; exact ⟨e, rfl, by assumption⟩
    · cases hl : lookup rest id with
      | none => simp [hl] at h
      | some j =>
        simp [hl] at h
        subst h
        obtain ⟨e', h1, h2⟩ := ih hl
        exact ⟨e', by simpa using h1, h2⟩

theorem lookup_none_iff {reg : List RegEntry} {id : ParamId} : lookup reg id = none ↔ ∀ e ∈ reg, e.id ≠ id := by
  induction reg with
  | nil => simp [lookup]
  | cons e rest ih =>
    unfold lookup
    split
    · simp; intro h; contradiction
    · simp [ih]; intro _; assumption

theorem lookup_isSome_iff {reg : List RegEntry} {id : ParamId} :
    (lookup reg id).isSome = true ↔ ∃ e ∈ reg, e.id = id := by
  rw [Option.isSome_iff_ne_none, ne_eq, lookup_none_iff]
  simp

theorem entryOf_none_iff {reg : List RegEntry} {id : ParamId} : entryOf reg id = none ↔ ∀ e ∈ reg, e.id ≠ id := by
  rw [← lookup_none_iff]
  unfold entryOf
  cases h : lookup reg id with
  | none => simp
  | some i => obtain ⟨e, h1, h2⟩ := lookup_some h; simp [h1]

theorem entryOf_mem {reg : List RegEntry} {id : ParamId} {e : RegEntry} (h : entryOf reg id = some e) :
    e ∈ reg ∧ e.id = id := by
  unfold entryOf at h
  cases hl : lookup reg id with
  | none => simp [hl] at h
  | some i =>
    obtain ⟨e', h1, h2⟩ := lookup_some hl
    simp [hl, h1] at h
    subst h
    exact ⟨List.mem_of_getElem? h1, h2⟩

/-- With distinct IDs (R43) the entry of an ID is the one that has it. -/
theorem entryOf_eq {reg : List RegEntry} {id : ParamId} {e : RegEntry} (hn : (reg.map RegEntry.id).Nodup) (he : e ∈ reg)
    (hid : e.id = id) : entryOf reg id = some e := by
  cases h : entryOf reg id with
  | none => exact absurd hid (entryOf_none_iff.1 h e he)
  | some e' =>
    obtain ⟨h1, h2⟩ := entryOf_mem h
    rw [List.inj_on_of_nodup_map hn h1 he (by rw [h2, hid])]

/-! ## Writing values (R215, R225) -/

/-- With distinct IDs an assignment writes the one entry with the ID. -/
theorem assign_eq {reg : List RegEntry} {id : ParamId} {v : Bytes} (hn : (reg.map RegEntry.id).Nodup) :
    assign reg id v = reg.map fun e => if e.id = id then e.setValue v else e := by
  induction reg with
  | nil => rfl
  | cons e rest ih =>
    simp only [List.map_cons, List.nodup_cons] at hn
    have ih := ih hn.2
    unfold assign at *
    rw [lookup]
    by_cases h : e.id = id
    · simp only [h, if_true, List.modify_zero_cons, List.map_cons]
      congr 1
      symm
      rw [List.map_congr_left (g := fun a => a)]
      · simp
      intro a ha
      rw [if_neg]
      intro hc
      apply hn.1
      show e.id ∈ _
      rw [h, ← hc]
      exact List.mem_map_of_mem ha
    · simp only [h, if_false, List.map_cons]
      cases hl : lookup rest id with
      | none => simp only [hl] at ih; simp only [Option.map_none]; rw [← ih]
      | some j => simp only [hl] at ih; simp only [Option.map_some, List.modify_succ_cons]; rw [← ih]

/-- An assignment changes no ID, tag or size, and adds and removes no entry (R43). -/
theorem assign_members (reg : List RegEntry) (id : ParamId) (v : Bytes) :
    (assign reg id v).map (fun e => (e.id, e.tag, e.size)) = reg.map (fun e => (e.id, e.tag, e.size)) := by
  unfold assign
  split
  · rfl
  · next i _ =>
    apply List.ext_getElem?
    intro j
    simp only [List.getElem?_map, List.getElem?_modify]
    cases reg[j]? with
    | none => rfl
    | some e => simp; split <;> simp [RegEntry.setValue]

theorem assignAll_cons (reg : List RegEntry) (u : Update) (us : List Update) :
    assignAll reg (u :: us) = assignAll (assign reg u.id u.bytes) us := rfl

theorem assignAll_members (reg : List RegEntry) (us : List Update) :
    (assignAll reg us).map (fun e => (e.id, e.tag, e.size)) = reg.map (fun e => (e.id, e.tag, e.size)) := by
  induction us generalizing reg with
  | nil => rfl
  | cons u us ih => rw [assignAll_cons, ih, assign_members]

/-! ## Coalescing (R213) -/

theorem coalesce_append (us : List Update) (u : Update) : coalesce (us ++ [u]) = coalesceInto (coalesce us) u := by
  simp [coalesce]

theorem coalesceInto_ids (out : List Update) (u : Update) : (coalesceInto out u).map Update.id =
    if u.id ∈ out.map Update.id then out.map Update.id else out.map Update.id ++ [u.id] := by
  induction out with
  | nil => simp [coalesceInto]
  | cons e rest ih =>
    unfold coalesceInto
    split
    · next h => simp [h]
    · next h =>
      simp only [List.map_cons, ih, List.mem_cons, List.mem_map]
      have : ¬ u.id = e.id := fun hh => h hh.symm
      simp only [this, false_or]
      split <;> simp

theorem mem_coalesceInto {out : List Update} {u w : Update} (hn : (out.map Update.id).Nodup) :
    w ∈ coalesceInto out u ↔ w = u ∨ w.id ≠ u.id ∧ w ∈ out := by
  induction out with
  | nil => simp [coalesceInto]
  | cons e rest ih =>
    simp only [List.map_cons, List.nodup_cons, List.mem_map, not_exists, not_and] at hn
    unfold coalesceInto
    split
    · next h =>
      have hu : (⟨e.id, u.bytes⟩ : Update) = u := by cases u; simp_all
      rw [hu]
      simp only [List.mem_cons]
      constructor
      · rintro (rfl | hw)
        · exact .inl rfl
        · exact .inr ⟨fun hc => hn.1 w hw (by rw [hc, h]), .inr hw⟩
      · rintro (rfl | ⟨h1, rfl | h2⟩)
        · exact .inl rfl
        · exact absurd h h1
        · exact .inr h2
    · next h =>
      simp only [List.mem_cons, ih hn.2]
      constructor
      · rintro (rfl | rfl | ⟨h1, h2⟩)
        · exact .inr ⟨h, .inl rfl⟩
        · exact .inl rfl
        · exact .inr ⟨h1, .inr h2⟩
      · rintro (rfl | ⟨h1, rfl | h2⟩)
        · exact .inr (.inl rfl)
        · exact .inl rfl
        · exact .inr (.inr ⟨h1, h2⟩)

/-! ## Validation (R215) -/

theorem updateProblem_none_iff {reg : List RegEntry} {u : Update} : updateProblem reg u = none ↔
    ∃ e, entryOf reg u.id = some e ∧ u.bytes.length = e.size.toNat := by
  unfold updateProblem
  split
  · next h => simp [h]
  · next e h => simp [h]

theorem batchProblem_none_iff {reg : List RegEntry} {us : List Update} : batchProblem reg us = none ↔
    ∀ u ∈ us, updateProblem reg u = none := by
  induction us with
  | nil => simp [batchProblem]
  | cons u us ih => unfold batchProblem; cases h : updateProblem reg u <;> simp [h, ih]

/-- Good requests at the front of a batch are passed over. -/
theorem batchProblem_append {reg : List RegEntry} {us : List Update} (h : ∀ u ∈ us, updateProblem reg u = none)
    (later : List Update) : batchProblem reg (us ++ later) = batchProblem reg later := by
  induction us with
  | nil => rfl
  | cons u us ih =>
    rw [List.cons_append, batchProblem, h u List.mem_cons_self]
    exact ih fun v hv => h v (List.mem_cons_of_mem _ hv)

/-- REG_APPLY: a rejection with the first bad request's diagnostic, or the whole batch written (R215). -/
theorem regApply_cases (us : List Update) (s : State) :
    (∃ d, batchProblem s.reg (coalesce us) = some d ∧ regApply us s = (s.diag d).result .reject) ∨
    (batchProblem s.reg (coalesce us) = none ∧
      regApply us s = State.result { s with reg := assignAll s.reg (coalesce us) } (.ok (coalesce us))) := by
  unfold regApply
  dsimp only
  split
  · next d h => exact .inl ⟨d, h, rfl⟩
  · next h => exact .inr ⟨h, rfl⟩

/-! ## Parsing (R225 to R229) -/

/-- One triple: an unknown ID, a wrong length, or the value written (R225 to R227). -/
theorem applyTriple_cases (id : ParamId) (v : Bytes) (s : State) :
    (entryOf s.reg id = none ∧ applyTriple id v s = (s.diag (.regUnknownId id), 0)) ∨
    ∃ e, entryOf s.reg id = some e ∧
      ((v.length ≠ e.size.toNat ∧ applyTriple id v s = (s.diag (.regSize id v.length e.size), 0)) ∨
        (v.length = e.size.toNat ∧ applyTriple id v s = ({ s with reg := assign s.reg id v }, 1))) := by
  unfold applyTriple
  split
  · next h => exact .inl ⟨h, rfl⟩
  · next e h =>
    refine .inr ⟨e, h, ?_⟩
    split
    · next h' => exact .inl ⟨h', rfl⟩
    · next h' => exact .inr ⟨by simpa using h', rfl⟩

theorem splitTriple_tripleBytes (id : ParamId) {v : Bytes} (rest : Bytes) (h : v.length ≤ 255) :
    splitTriple (tripleBytes id v ++ rest) = some (id, v, rest) := by
  have hl : (BitVec.ofNat 8 v.length).toNat = v.length := by simp; omega
  simp only [tripleBytes, splitTriple, List.cons_append, List.nil_append, word16_low_high, hl]
  rw [if_neg (by simp)]
  simp

theorem splitTriple_length {block v after : Bytes} {id : ParamId} (h : splitTriple block = some (id, v, after)) :
    after.length + v.length + 3 = block.length := by
  unfold splitTriple at h
  split at h
  · split at h
    · cases h
    · next hl => cases h; simp at hl ⊢; omega
  · cases h

/-- More rounds than bytes change nothing. -/
theorem parseBlock_rounds (rounds p : Nat) (rest : Bytes) (applied : Nat) (s : State) (more : Nat)
    (h : rest.length ≤ rounds) : parseBlock (rounds + more) p rest applied s = parseBlock rounds p rest applied s := by
  induction rounds generalizing p rest applied s with
  | zero =>
    cases rest with
    | nil => cases more <;> rfl
    | cons => simp at h
  | succ rounds ih =>
    cases rest with
    | nil => rw [show rounds + 1 + more = (rounds + more) + 1 by omega]; rfl
    | cons b bs =>
      rw [show rounds + 1 + more = (rounds + more) + 1 by omega, parseBlock, parseBlock]
      split
      · rfl
      · next id v after hs =>
        apply ih
        have := splitTriple_length hs
        simp at h this
        omega

/-- The loop takes a whole triple at the head of the block (R225). -/
theorem parseBlock_triple (id : ParamId) {v : Bytes} (rest : Bytes) (hv : v.length ≤ 255) (p applied : Nat) (s : State)
    {rounds : Nat} (hr : (tripleBytes id v ++ rest).length ≤ rounds) :
    parseBlock rounds p (tripleBytes id v ++ rest) applied s =
      parseBlock rest.length (p + 3 + v.length) rest (applied + (applyTriple id v s).2) (applyTriple id v s).1 := by
  obtain ⟨r, rfl⟩ : ∃ r, rounds = r + 1 := ⟨rounds - 1, by simp [tripleBytes] at hr; omega⟩
  have h1 : tripleBytes id v ++ rest = lowByte id :: ([highByte id, BitVec.ofNat 8 v.length] ++ v ++ rest) := rfl
  rw [h1, parseBlock, ← h1, splitTriple_tripleBytes _ _ hv]
  dsimp only
  have : rest.length ≤ r := by simp [tripleBytes] at hr; omega
  rw [show r = rest.length + (r - rest.length) by omega, parseBlock_rounds _ _ _ _ _ _ (Nat.le_refl _)]

/-- What a registry operation may touch (R200), and how: membership and diagnostics only grow. -/
structure RegistryFrame (s t : State) : Prop where
  eq : t = { s with reg := t.reg, batch := t.batch, batchValid := t.batchValid, diagOut := t.diagOut, resOut := t.resOut }
  members : (s.reg.map fun e => (e.id, e.tag, e.size)) <+: t.reg.map fun e => (e.id, e.tag, e.size)
  diags : s.diagOut <+: t.diagOut

theorem RegistryFrame.trans {s t u : State} (h : RegistryFrame s t) (h' : RegistryFrame t u) : RegistryFrame s u := by
  refine ⟨?_, h.2.trans h'.2, h.3.trans h'.3⟩
  rw [h'.1, h.1]

theorem diag_registryFrame (d : Diag) (s : State) : RegistryFrame s (s.diag d) :=
  ⟨rfl, List.prefix_refl _, List.prefix_append _ _⟩

theorem result_registryFrame (r : Result) (s : State) : RegistryFrame s (s.result r) :=
  ⟨rfl, List.prefix_refl _, List.prefix_refl _⟩

theorem applyTriple_registryFrame (id : ParamId) (v : Bytes) (s : State) : RegistryFrame s (applyTriple id v s).1 := by
  rcases applyTriple_cases id v s with ⟨_, h⟩ | ⟨e, _, ⟨_, h⟩ | ⟨_, h⟩⟩ <;> rw [h]
  · exact diag_registryFrame _ _
  · exact diag_registryFrame _ _
  · exact ⟨rfl, by dsimp only; rw [assign_members], List.prefix_refl _⟩

theorem parseBlock_registryFrame (rounds p : Nat) (rest : Bytes) (applied : Nat) (s : State) :
    RegistryFrame s (parseBlock rounds p rest applied s).1 := by
  induction rounds generalizing p rest applied s with
  | zero => exact ⟨rfl, List.prefix_refl _, List.prefix_refl _⟩
  | succ rounds ih =>
    cases rest with
    | nil => exact ⟨rfl, List.prefix_refl _, List.prefix_refl _⟩
    | cons b bs =>
      rw [parseBlock]
      split
      · exact diag_registryFrame _ _
      · exact (applyTriple_registryFrame _ _ _).trans (ih _ _ _ _)

theorem regApply_registryFrame (us : List Update) (s : State) : RegistryFrame s (regApply us s) := by
  rcases regApply_cases us s with ⟨d, _, h⟩ | ⟨_, h⟩ <;> rw [h]
  · exact (diag_registryFrame _ _).trans (result_registryFrame _ _)
  · exact ⟨rfl, by simp [assignAll_members], List.prefix_refl _⟩

end Sys2Proof.Machine
end

