-- ==== Sys2Proof/Laws/Tick.lean ====
section
/-! SUPPORT. The client's operations are the instructions of the same names, one after another; what a packet that is no
instruction can do. -/

namespace Sys2Proof.Machine

/-- A client operation always completes: RX_BYTE, RX_DRAIN, TX_POLL and RESYNC are not among them (R241). -/
theorem exec_toInstr (o : ClientOp) (s : State) : exec o.toInstr s = .next (clientOp o s) := by cases o <;> rfl

theorem execAll_cons (i : Instr) (is : List Instr) (s : State) :
    execAll (i :: is) s = andThen (exec i s) (execAll is) := rfl

theorem execAll_append (is js : List Instr) (s : State) :
    execAll (is ++ js) s = andThen (execAll is s) (execAll js) := by
  induction is generalizing s with
  | nil => rfl
  | cons i is ih =>
    simp only [List.cons_append, execAll_cons]
    cases exec i s <;> simp [ih]

theorem clientOps_cons (o : ClientOp) (os : List ClientOp) (s : State) :
    clientOps (o :: os) s = clientOps os (clientOp o s) := rfl

theorem execAll_toInstr (os : List ClientOp) (s : State) :
    execAll (os.map ClientOp.toInstr) s = .next (clientOps os s) := by
  induction os generalizing s with
  | nil => rfl
  | cons o os ih => rw [List.map_cons, execAll_cons, exec_toInstr, andThen_next, ih, clientOps_cons]

/-- A tick is its drain and then what always completes (R241). -/
theorem tick_eq_next {drainTimes : List Time} {pollTime : Time} {stepC stepD : List ClientOp} {s t : State} :
    tick drainTimes pollTime stepC stepD s = .next t ↔
      ∃ u, rxDrain drainTimes s = .next u ∧ t = dispatchPending stepD (clientOps stepC (txPoll pollTime u)) := by
  unfold tick
  rw [andThen_eq_next]
  constructor
  · rintro ⟨u, h, h'⟩; cases h'; exact ⟨u, h, rfl⟩
  · rintro ⟨u, h, rfl⟩; exact ⟨u, h, rfl⟩

/-- A drain of one waiting byte at an idle port is RX_BYTE of that byte. -/
theorem receiveMessage_one (b : Byte) (now : Time) {s : State} (hp : s.framePending = false) (hq : s.rxQueue = []) :
    receiveMessage [b] now s = rxByte b now s := by
  unfold receiveMessage
  simp only [hq, List.nil_append, List.length_nil, List.length_cons, Nat.zero_add, List.replicate_one]
  rw [rxDrain_cons (b := b) (waiting := []) (by exact hp) rfl]
  have : ({ s with rxQueue := [] } : State) = s := by rw [← hq]
  dsimp only
  rw [this]
  cases rxByte b now s <;> rfl

/-! ## Packets that are no instruction -/

theorem receiveMessage_eq_rxDrain (message : Bytes) (now : Time) (s : State) : receiveMessage message now s =
    exec (.rxDrain (List.replicate (s.rxQueue.length + message.length) now)) { s with rxQueue := s.rxQueue ++ message } := rfl

/-- A message that is no frame and no resync byte is received with the time that follows it. -/
theorem execMalformed_message {fmt : Format} (h : fmt = .frame ∨ fmt = .resync) (message : Bytes) (now : Time)
    (e : DecodeError) (s : State) : execMalformed ⟨fmt, message ++ encTime now⟩ e s = receiveMessage message now s := by
  have hl : (message ++ encTime now).length - 4 = message.length := by simp [encTime, leBytes]
  have ht := readTime_encTime now []
  rw [List.append_nil] at ht
  rcases h with rfl | rfl <;> simp only [execMalformed, hl, List.drop_left, List.take_left, ht]

theorem execMalformed_triple (bytes : Bytes) (e : DecodeError) (s : State) :
    execMalformed ⟨.triple, bytes⟩ e s = exec (.regParse bytes) s := rfl

/-- All that a packet that is no instruction can do: its message is received, or its block is parsed. -/
theorem execMalformed_eq_next {p : Packet} {e : DecodeError} {s t : State} (h : execMalformed p e s = .next t) :
    (∃ (message : Bytes) (now : Time), (p.fmt = .frame ∨ p.fmt = .resync) ∧ receiveMessage message now s = .next t) ∨
    (p.fmt = .triple ∧ t = regParse p.bytes s) := by
  unfold execMalformed at h
  split at h
  · next hf => split at h <;> first | exact .inl ⟨_, _, .inl hf, h⟩ | cases h
  · next hf => split at h <;> first | exact .inl ⟨_, _, .inr hf, h⟩ | cases h
  · next hf => cases h; exact .inr ⟨hf, rfl⟩
  · cases h
  · cases h

end Sys2Proof.Machine
end

