-- ==== Sys2Proof/Laws/Transmitter.lean ====
section
/-! SUPPORT. What recording a frame, SEND, SEND_REPLY and TX_POLL can do. -/

namespace Sys2Proof.Machine

theorem Count.ofNat_val {n : Nat} (h : n ≤ Config.cap) : (Count.ofNat n : Nat) = n := by
  simp only [Count.ofNat]; omega

theorem encodeFrame_length_le_cap {c : Config.Params} {counter : Byte} {command : BitVec 16} {payload f : Bytes}
    (h : encodeFrame c counter command payload = some f) : f.length ≤ Config.cap := by
  have := encodeFrame_length h
  simp only [Config.maxPayload, Config.cap] at *
  omega

/-- A recorded frame is the frame that was transmitted (R36, R82). -/
theorem lastFrame_transmit {f : Bytes} (hf : f.length ≤ Config.cap) {s : State} (hw : s.lastBuf.wf = true) (now : Time) :
    (s.transmit f now).lastFrame = f := by
  simp only [State.lastFrame, State.transmit_lastBuf, State.transmit_lastLen, Count.ofNat_val hf]
  exact Memory.slice_store (Memory.wf_rising hw) 0 f

/-- SEND: the overflow from 251 payload bytes on (R172), else the transmission of the encoded frame (R171). -/
theorem send_cases (command : BitVec 16) (payload : Bytes) (posted : Bool) (now : Time) (s : State) :
    (Config.maxPayload < payload.length ∧ send command payload posted now s =
      State.raiseEncodeOverflow { s with txCounter := s.txCounter + 1 } payload.length) ∨
    ∃ f, encodeFrame s.cfg (s.txCounter + 1) command payload = some f ∧ send command payload posted now s =
      if posted then State.transmit { s with txCounter := s.txCounter + 1 } f now
      else (State.transmit { s with txCounter := s.txCounter + 1 } f now).expectResponse := by
  unfold send
  dsimp only
  split
  · next h => exact .inl ⟨(encodeFrame_none_iff _ _ _ _).1 h, rfl⟩
  · next f h => exact .inr ⟨f, h, rfl⟩

/-- SEND_REPLY: the overflow (R177), else the transmission of the encoded frame (R176). -/
theorem sendReply_cases (counter : Byte) (command : BitVec 16) (payload : Bytes) (now : Time) (s : State) :
    (Config.maxPayload < payload.length ∧
      sendReply counter command payload now s = s.raiseEncodeOverflow payload.length) ∨
    ∃ f, encodeFrame s.cfg counter command payload = some f ∧ sendReply counter command payload now s =
      if s.cfg.replyAwaits then (s.transmit f now).expectResponse else s.transmit f now := by
  unfold sendReply
  split
  · next h => exact .inl ⟨(encodeFrame_none_iff _ _ _ _).1 h, rfl⟩
  · next f h => exact .inr ⟨f, h, rfl⟩

theorem responseTimeout_iff (now : Time) (s : State) : s.responseTimeout now = true ↔
    s.awaiting = true ∧ s.cfg.tResponse.toNat < (elapsed now s.lastTxTime).toNat := by
  simp [State.responseTimeout]

/-- TX_POLL: nothing, a retransmission, or the resynchronization (R180). -/
theorem txPoll_cases (now : Time) (s : State) :
    (s.responseTimeout now = false ∧ txPoll now s = s) ∨
    (s.responseTimeout now = true ∧ s.retryCount.toNat < s.cfg.maxRetries.toNat ∧ txPoll now s = retransmit now s) ∨
    (s.responseTimeout now = true ∧ s.cfg.maxRetries.toNat ≤ s.retryCount.toNat ∧
      txPoll now s = s.resync .retryExhausted) := by
  unfold txPoll
  split
  · next h =>
    split
    · next h' => exact .inr (.inl ⟨h, h', rfl⟩)
    · next h' => exact .inr (.inr ⟨h, Nat.le_of_not_lt h', rfl⟩)
  · next h => exact .inl ⟨by simpa using h, rfl⟩

/-- A retransmission that TX_POLL performs counts up by one (R38, R180). -/
theorem retransmit_retryCount_toNat {now : Time} {s : State} (h : s.retryCount.toNat < s.cfg.maxRetries.toNat) :
    (retransmit now s).retryCount.toNat = s.retryCount.toNat + 1 := by
  have := s.cfg.maxRetries.isLt
  simp only [retransmit_retryCount, BitVec.toNat_add]
  simp
  omega

end Sys2Proof.Machine
end

