-- ==== Sys2Proof/Tests/Slice0.lean ====
section
/-! SUPPORT. The model's own tests: ill-formed terms refused, every constructor's decoding from a packet written out by
hand, one step per instruction with the expected values of spec/95_test_vectors.md (the vector's name stands beside each
test), and a witness of the hypotheses of each statement. -/

namespace Sys2Proof.Tests

-- Each `decide +kernel` waits for the kernel: without this line every test waits in a thread of its own.
set_option Elab.async false

open Sys2Proof Sys2Proof.Machine

/-! ## Helpers -/

def ref : Config.Params := Config.Params.ref

def cold : State := State.reset

/-- The outcome is a next state with the property. -/
def answers (o : Outcome) (p : State → Bool) : Bool :=
  match o with
  | .next t => p t
  | .fault _ => false
  | .refused _ => false

/-- Vector E1, E2, E3 of spec/95_test_vectors.md. -/
def e1 : Bytes := [0x5A, 0x00, 0x01, 0x00, 0x00, 0x00, 0xA5]
def e2 : Bytes := [0x5A, 0x01, 0x10, 0x00, 0x00, 0x02, 0x01, 0x02, 0x90]
def e3 : Bytes := [0x5A, 0x07, 0x10, 0x80, 0x00, 0x02, 0xAA, 0xBB, 0xA8]

/-- Bytes wait in the transport. -/
def waiting (bs : Bytes) : State := { cold with rxQueue := bs }

/-- The frame is pending. -/
def latched (f : Bytes) : State :=
  { cold with framePending := true, pendLen := Count.ofNat f.length, pendBuf := Memory.store [] 0 f }

/-- A frame was sent at time 0 and its response is awaited. -/
def sent (f : Bytes) (retries : BitVec 8) : State :=
  { cold with
    txCounter := 0
    awaiting := true
    retryCount := retries
    lastLen := Count.ofNat f.length
    lastBuf := Memory.store [] 0 f }

/-- `n` bytes of a frame with these bytes at its start have been received, the last at time 0; the rest of them are 0. -/
def midFrame (n : Count) (bs : Bytes) : State :=
  { cold with rxState := .accum, rxCount := n, rxBuf := Memory.store [] 0 bs }

/-- The start of a frame with length byte `len`. -/
def headerOf (len : Byte) : Bytes := [0x5A, 0, 0, 0, 0, len]

/-- The registry of vectors RG1 and RG3. -/
def withRegistry : State :=
  { cold with reg := [⟨0x0080, 0x01, 1, true, [0x05]⟩, ⟨0x0082, 0x01, 2, true, [0xAA, 0xBB]⟩, ⟨0x0100, 0x00, 4, false, []⟩] }

/-! ## WellFormed: one ill-formed term for each check -/

theorem test_wf_update : Update.wf ⟨0, List.replicate 256 0⟩ = false := by decide +kernel
theorem test_wf_batch : Instr.wf ref (.regApply [⟨0x80, List.replicate 256 0⟩]) = false := by decide +kernel
theorem test_wf_queue : Instr.wf ref (.regQueue [⟨0x80, List.replicate 256 0⟩]) = false := by decide +kernel
theorem test_wf_regAt : Instr.wf ref (.regAt (2 ^ 32)) = false := by decide
theorem test_wf_client : ClientOp.wf (.regAt (2 ^ 32)) = false := by decide
theorem test_wf_tick_c : Instr.wf ref (.tick [] 0 [.regAt (2 ^ 32)] []) = false := by decide
theorem test_wf_tick_d : Instr.wf ref (.tick [] 0 [] [.regAt (2 ^ 32)]) = false := by decide
theorem test_wf_seq (bs : Bytes) (h : bs.length = 2 ^ 32) : Instr.wf ref (.cksum bs) = false := by
  simp [Instr.wf, seqFits, h]
theorem test_wf_start : Instr.wf ref (.rxStart 0x66 0) = false := by decide
theorem test_wf_resync : Instr.wf ref (.rxResync 0x5A 0) = false := by decide
theorem test_wf_noise : Instr.wf ref (.rxNoise 0x5A 0) = false := by decide
theorem test_wf_frame : Instr.wf ref (.frameReq 0 0 0 (List.replicate 251 0) 0 0) = false := by decide +kernel
theorem test_wf_frame_longest : Instr.wf ref (.frameRsp 0 0 0 (List.replicate 250 0) 0 0) = true := by decide +kernel
theorem test_wf_triple : Instr.wf ref (.triple 0 (List.replicate 256 0)) = false := by decide +kernel
theorem test_wf_params : Config.Params.wf { ref with resyncMarker := 0x5A } = false := by decide
theorem test_wf_params_timeout : Config.Params.wf { ref with tInterbyte := 0x80000000 } = false := by decide
theorem test_wf_params_response : Config.Params.wf { ref with tResponse := 0x80000000 } = false := by decide
theorem test_wf_params_regCap : Config.Params.wf { ref with regCap := 0 } = false := by decide
theorem test_wf_ref : Config.Params.wf ref = true := by decide

/-! ## Decoding: packets written out by hand (indices of R110, wire layouts of R90, R96, R97, operands of log 6) -/

/-- The instruction of an OP packet under REF, the receiver idle. -/
def op (bs : Bytes) : Except DecodeError Instr := decode ref coldRx ⟨.op, bs⟩

theorem test_decode_cksum : op [0x01, 2, 0, 0, 0, 0x80, 0x81] = .ok (.cksum [0x80, 0x81]) := by rfl
theorem test_decode_encode : op [0x02, 0x07, 0x10, 0x80, 1, 0, 0, 0, 0xAA] = .ok (.encode 0x07 0x8010 [0xAA]) := by rfl
theorem test_decode_verify : op [0x03, 1, 0, 0, 0, 0x5A] = .ok (.verify [0x5A]) := by rfl
theorem test_decode_fields : op [0x04] = .ok .fields := by rfl
theorem test_decode_rxByte : op [0x10, 0x5A, 0x78, 0x56, 0x34, 0x12] = .ok (.rxByte 0x5A 0x12345678) := by rfl
theorem test_decode_rxDrain : op [0x11, 2, 0, 0, 0, 5, 0, 0, 0, 6, 0, 0, 0] = .ok (.rxDrain [5, 6]) := by rfl
theorem test_decode_rxRelease : op [0x12] = .ok .rxRelease := by rfl
theorem test_decode_send :
    op [0x20, 0x34, 0x12, 1, 0, 0, 0, 0xAB, 1, 100, 0, 0, 0] = .ok (.send 0x1234 [0xAB] true 100) := by rfl
theorem test_decode_sendReply :
    op [0x21, 0x42, 0x20, 0x80, 0, 0, 0, 0, 5, 0, 0, 0] = .ok (.sendReply 0x42 0x8020 [] 5) := by rfl
theorem test_decode_txPoll : op [0x22, 0xE8, 0x03, 0, 0] = .ok (.txPoll 1000) := by rfl
theorem test_decode_resync : op [0x23, 1] = .ok (.resync .retryExhausted) := by rfl
theorem test_decode_regClear : op [0x30] = .ok .regClear := by rfl
theorem test_decode_regDefine : op [0x31, 0x82, 0x01, 0x07, 2] = .ok (.regDefine 0x0182 0x07 2) := by rfl
theorem test_decode_regGet : op [0x32, 0x80, 0x01] = .ok (.regGet 0x0180) := by rfl
theorem test_decode_regQueue :
    op [0x33, 1, 0, 0, 0, 0x82, 0x01, 2, 0x0A, 0x0B] = .ok (.regQueue [⟨0x0182, [0x0A, 0x0B]⟩]) := by rfl
theorem test_decode_regApply : op [0x34, 1, 0, 0, 0, 0x80, 0x00, 0] = .ok (.regApply [⟨0x0080, []⟩]) := by rfl
theorem test_decode_regFlush : op [0x35] = .ok .regFlush := by rfl
theorem test_decode_regParse : op [0x36, 2, 0, 0, 0, 0x80, 0x00] = .ok (.regParse [0x80, 0x00]) := by rfl
theorem test_decode_regInfo : op [0x37, 0x80, 0x01] = .ok (.regInfo 0x0180) := by rfl
theorem test_decode_regAt : op [0x38, 0x02, 0x01, 0, 0] = .ok (.regAt 0x102) := by rfl
theorem test_decode_tick :
    op [0x40, 1, 0, 0, 0, 7, 0, 0, 0, 9, 0, 0, 0, 1, 0, 0, 0, 0x35, 1, 0, 0, 0, 0x41, 0, 0xC3, 0xB2, 0xA1] =
      .ok (.tick [7] 9 [.regFlush] [.csSet (.sessionId 0xA1B2C3)]) := by rfl
theorem test_decode_csSet : op [0x41, 2, 0x78, 0x56, 0x34, 0x12] = .ok (.csSet (.lastPollTime 0x12345678)) := by rfl

/-- The instruction of a received byte under REF, at time 0x0102. -/
def received (rx : RxContext) (b : Byte) : Except DecodeError Instr := decode ref rx ⟨.rxByte, [b, 0x02, 0x01, 0, 0]⟩

theorem test_decode_rxStart : received coldRx 0x5A = .ok (.rxStart 0x5A 0x0102) := by rfl
theorem test_decode_rxResync : received coldRx 0x66 = .ok (.rxResync 0x66 0x0102) := by rfl
theorem test_decode_rxNoise : received coldRx 0x00 = .ok (.rxNoise 0x00 0x0102) := by rfl
theorem test_decode_rxData : received ⟨.accum, 0xD0⟩ 0x5A = .ok (.rxData 0x5A 0x0102) := by rfl
theorem test_decode_rxStart_after_gap : received ⟨.accum, 0xCF⟩ 0x5A = .ok (.rxStart 0x5A 0x0102) := by rfl

theorem test_decode_frameReq : decode ref coldRx ⟨.frame, [0x5A, 0x42, 0x20, 0x01, 0x03, 1, 0x99, 0x42, 5, 0, 0, 0]⟩ =
    .ok (.frameReq 0x42 0x0120 0x03 [0x99] 0x42 5) := by rfl
theorem test_decode_frameRsp : decode ref coldRx ⟨.frame, [0x5A, 0x55, 0x99, 0x81, 0x00, 0, 0x38, 5, 0, 0, 0]⟩ =
    .ok (.frameRsp 0x55 0x0199 0x00 [] 0x38 5) := by rfl
theorem test_decode_resyncByte : decode ref coldRx ⟨.resync, [0x66, 5, 0, 0, 0]⟩ = .ok (.resyncByte 5) := by rfl
theorem test_decode_triple : decode ref coldRx ⟨.triple, [0x82, 0x01, 2, 0xAA, 0xBB]⟩ = .ok (.triple 0x0182 [0xAA, 0xBB]) := by
  rfl

theorem test_decode_unassigned : op [0x05] = .error (.noSuchOperation 0x05) := by rfl
theorem test_decode_truncated : op [0x22, 0, 0] = .error .truncated := by rfl
theorem test_decode_trailing : op [0x12, 1] = .error .trailingBytes := by rfl
theorem test_decode_bad_field : op [0x41, 3, 0, 0, 0, 0] = .error (.badField 3) := by rfl
theorem test_decode_bad_cause : op [0x23, 2] = .error (.badCause 2) := by rfl
theorem test_decode_bad_bool : op [0x20, 0, 0, 0, 0, 0, 0, 2, 0, 0, 0, 0] = .error (.badBool 2) := by rfl
theorem test_decode_not_a_frame : decode ref coldRx ⟨.frame, [0x5B]⟩ = .error (.notAFrame 0x5B) := by rfl
theorem test_decode_frame_length : decode ref coldRx ⟨.frame, [0x5A, 0, 0, 0, 0, 251]⟩ = .error (.frameLength 251) := by rfl
theorem test_decode_not_resync : decode ref coldRx ⟨.resync, [0x5A]⟩ = .error (.notResync 0x5A) := by rfl
theorem test_decode_tick_client : op [0x40, 0, 0, 0, 0, 0, 0, 0, 0, 1, 0, 0, 0, 0x23] = .error (.noSuchOperation 0x23) := by rfl
theorem test_tableWord_op : decodeTableWord 8 0x41 = some (.csSet (.sessionId 0)) := by decide +kernel
theorem test_tableWord_byte : decodeTableWord 8 0x66 = some (.rxResync 0x66 0) := by decide +kernel
theorem test_tableWord_frame : decodeTableWord 48 0x5A4220000001 = some (.frameReq 0x42 0x0020 0 [0] 0 0) := by
  decide +kernel
theorem test_tableWord_triple : decodeTableWord 24 0x010180 = some (.triple 0x0180 [0]) := by decide +kernel
theorem test_fetch : answers (step (cold.withFetchWord 8 0x5A)) (fun t => t.rxState == .accum && t.input == []) = true := by
  decide +kernel

/-- The step of a packet at cold start. -/
def stepOf (p : Packet) : Outcome := step { cold with input := [.packet p] }

/-- R106 (b), R148: a message with a length byte of 251. -/
theorem test_malformed_oversize : answers (stepOf ⟨.frame, [0x5A, 0, 0, 0, 0, 251, 5, 0, 0, 0]⟩)
    (fun t => t.diagOut == [.oversize 251] && t.rxState == .idle && t.rxLastTime == 5) = true := by decide +kernel
/-- R106 (a), R145: a message that opens with neither marker. -/
theorem test_malformed_noise : answers (stepOf ⟨.resync, [0x13, 5, 0, 0, 0]⟩)
    (fun t => t.diagOut == [.noise 0x13] && t.rxLastTime == 5) = true := by decide +kernel
/-- R140: a message that ends inside its frame leaves a partial frame. -/
theorem test_malformed_partial : answers (stepOf ⟨.frame, [0x5A, 7, 0, 0, 0, 0]⟩)
    (fun t => t.rxState == .accum && t.rxCount == 2) = true := by decide +kernel
/-- R228: a triple that runs past the end of its block. -/
theorem test_malformed_triple : answers (stepOf ⟨.triple, [0x82, 0x01, 2, 0xAA]⟩)
    (fun t => t.diagOut == [.regTrunc 0] && t.resOut == [.count 0]) = true := by decide +kernel
/-- R111. -/
theorem test_malformed_op : stepOf ⟨.op, [0x05]⟩ = .refused (.undecodable (.noSuchOperation 0x05)) := rfl

/-! ## One step of each instruction -/

theorem test_cksum_ck3 : answers (exec (.cksum [0x80, 0x80]) cold) (fun t => t.resOut == [.byte 0x00]) = true := by
  decide +kernel
theorem test_cksum_ck4 : answers (exec (.cksum [0xFF, 0xFF]) cold) (fun t => t.resOut == [.byte 0x02]) = true := by
  decide +kernel
theorem test_encode_e3 : answers (exec (.encode 0x07 0x8010 [0xAA, 0xBB]) cold) (fun t => t.resOut == [.frame e3]) = true := by
  decide +kernel
theorem test_encode_e7 : answers (exec (.encode 0 0 (List.replicate 251 0)) cold) (fun t => t.resOut == [.encodeFail]) = true := by
  decide +kernel
theorem test_verify_v1 : answers (exec (.verify e1) cold) (fun t => t.resOut == [.bool true]) = true := by decide +kernel
theorem test_verify_v4 : answers (exec (.verify [0x5A, 0x00, 0x01, 0x00, 0x00, 0x01, 0xA4]) cold)
    (fun t => t.resOut == [.bool false]) = true := by decide +kernel
theorem test_fields_f1 : answers (exec .fields (latched e3)) (fun t => t.resOut ==
    [.fields ⟨0x07, 0x8010, true, 0x00, 2, [0xAA, 0xBB], 0xA8, e3⟩] && t.framePending) = true := by decide +kernel
theorem test_fields_f2 : answers (exec .fields cold) (fun t => t.resOut == [.absent]) = true := by decide +kernel
/-- The last byte of RX8. -/
theorem test_rxByte_rx8 : answers (exec (.rxByte 0xA4 0) (midFrame 6 [0x5A, 0x00, 0x01]))
    (fun t => t.diagOut == [.cksum 0xA5 0xA4] && t.rxState == .idle && !t.framePending) = true := by decide +kernel
/-- The last byte of RX12. -/
theorem test_rxByte_rx12 : answers (exec (.rxByte 0x66 51) (midFrame 2 [0x5A, 0x01]))
    (fun t => t.diagOut == [.gap 2] && t.evOut == [.resync .marker]) = true := by decide +kernel
/-- R68, R247: a waiting byte fed by the client no longer waits; a byte that would overtake it is refused. -/
theorem test_rxByte_takes_the_oldest : answers (exec (.rxByte 0x5A 0) (waiting [0x5A, 0x00]))
    (fun t => t.rxState == .accum && t.rxQueue == [0x00]) = true := by decide +kernel
theorem test_rxByte_out_of_order : exec (.rxByte 0x5A 0) (waiting [0x00, 0x5A]) = .refused .rxOutOfStreamOrder := rfl
theorem test_rxStart_out_of_order : exec (.rxStart 0x5A 0) (waiting [0x00, 0x5A]) = .refused .rxOutOfStreamOrder := rfl
theorem test_rxDrain_rx2 : answers (exec (.rxDrain [0, 50, 100, 150, 200, 250, 300, 350, 400]) (waiting e3))
    (fun t => t.pendingFrame == e3 && t.framePending && t.diagOut == []) = true := by decide +kernel
/-- The first bytes of TK5: the event, then the frame. -/
theorem test_rxDrain_tk5 : answers (exec (.rxDrain (List.replicate 8 0)) (waiting (0x66 :: e1)))
    (fun t => t.evOut == [.resync .marker] && t.pendingFrame == e1 && t.framePending) = true := by decide +kernel
theorem test_rxRelease_rl1 : answers (exec .rxRelease (latched e1)) (fun t => !t.framePending) = true := by decide +kernel
theorem test_send_tx1 : answers (exec (.send 0x0001 [] false 100) cold) (fun t => t.txOut == [e1] && t.txCounter == 0x00 &&
    t.awaiting && t.lastLen == 7 && t.lastTxTime == 100 && t.retryCount == 0) = true := by decide +kernel
theorem test_send_tx4 : answers (exec (.send 0x0001 (List.replicate 251 0) false 0) cold) (fun t => t.txOut == [] &&
    t.txCounter == 0x00 && t.fault && !t.awaiting && t.lastLen == 0) = true := by decide +kernel
theorem test_sendReply_tx6 : answers (exec (.sendReply 0x42 0x8020 [0x00] 5) cold)
    (fun t => t.txOut == [[0x5A, 0x42, 0x20, 0x80, 0x00, 0x01, 0x00, 0xC3]] && t.txCounter == 0xFF && !t.awaiting &&
      t.lastLen == 8 && t.lastTxTime == 5) = true := by decide +kernel
theorem test_txPoll_tx7 : answers (exec (.txPoll 1000) (sent e1 0)) (fun t => t.txOut == []) = true := by decide +kernel
theorem test_txPoll_tx8 : answers (exec (.txPoll 1001) (sent e1 0))
    (fun t => t.txOut == [e1] && t.retryCount == 1 && t.lastTxTime == 1001) = true := by decide +kernel
theorem test_resync_refused : exec (.resync .marker) cold = .refused .resyncByClient := rfl
theorem test_regClear_rg13 : answers (exec .regClear withRegistry) (fun t => t.regN == 0) = true := by decide +kernel
theorem test_regDefine_rg1 : answers (exec (.regDefine 0x0080 0x02 3) withRegistry)
    (fun t => t.resOut == [.bool false] && t.diagOut == [.regDup 0x0080] && t.reg == withRegistry.reg) = true := by
  decide +kernel
theorem test_regGet_rg2 : answers (exec (.regGet 0x0100) withRegistry)
    (fun t => t.resOut == [.bytes []] && t.diagOut == [.regMiss 0x0100 .unvalued]) = true := by decide +kernel
theorem test_regQueue_rg11 : answers (exec (.regQueue [⟨0x0082, [0x0A, 0x0B]⟩]) { cold with batch := [⟨0x0080, [0x01]⟩], batchValid := true })
    (fun t => t.batch == [⟨0x0082, [0x0A, 0x0B]⟩] && t.batchValid) = true := by decide +kernel
theorem test_regApply_rg5 : answers (exec (.regApply [⟨0x0080, [0x01]⟩, ⟨0x0082, [0x02]⟩]) withRegistry) (fun t =>
    t.resOut == [.reject] && t.diagOut == [.regSize 0x0082 1 2] && t.reg == withRegistry.reg) = true := by decide +kernel
theorem test_regApply_rg6 :
    answers (exec (.regApply [⟨0x0080, [0x01]⟩, ⟨0x0082, [0x02, 0x03]⟩, ⟨0x0080, [0x09]⟩]) withRegistry) (fun t =>
      t.resOut == [.ok [⟨0x0080, [0x09]⟩, ⟨0x0082, [0x02, 0x03]⟩]] &&
      t.reg.map RegEntry.value == [[0x09], [0x02, 0x03], []]) = true := by decide +kernel
theorem test_regFlush_rg11 :
    answers (exec .regFlush { withRegistry with batch := [⟨0x0082, [0x0A, 0x0B]⟩], batchValid := true }) (fun t =>
      t.resOut == [.ok [⟨0x0082, [0x0A, 0x0B]⟩]] && t.reg.map RegEntry.value == [[0x05], [0x0A, 0x0B], []] &&
      !t.batchValid) = true := by decide +kernel
theorem test_regParse_rg3 :
    answers (exec (.regParse [0x80, 0x00, 0x01, 0x05, 0x81, 0x00, 0x01, 0x07, 0x82, 0x00, 0x02, 0xAA, 0xBB]) withRegistry)
      (fun t => t.resOut == [.count 2] && t.diagOut == [.regUnknownId 0x0081] && t.reg == withRegistry.reg) = true := by
  decide +kernel
theorem test_regParse_rg4 :
    answers (exec (.regParse [0x80, 0x00, 0x02, 0x01, 0x02, 0x00, 0x01, 0x04, 0x01, 0x02, 0x03, 0x04, 0x82, 0x00, 0x02, 0x09])
      withRegistry) (fun t => t.resOut == [.count 1] && t.diagOut == [.regSize 0x0080 2 1, .regTrunc 12] &&
        t.reg.map RegEntry.value == [[0x05], [0xAA, 0xBB], [0x01, 0x02, 0x03, 0x04]]) = true := by decide +kernel
theorem test_regInfo_rg12 : answers (exec (.regInfo 0x0082) withRegistry)
    (fun t => t.resOut == [.info 0x01 2 true]) = true := by decide +kernel
theorem test_regAt_rg12 : answers (exec (.regAt 3) withRegistry) (fun t => t.resOut == [.absent]) = true := by decide +kernel
theorem test_tick_tk1 : answers (exec (.tick (List.replicate 9 0) 0 [] []) (waiting ([0x00] ++ e1 ++ [0x5A]))) (fun t =>
    t.diagOut == [.noise 0x00] && t.rxQueue == [0x5A] && !t.framePending &&
      t.resOut == [.fields ⟨0x00, 0x0001, false, 0x00, 0, [], 0xA5, e1⟩]) = true := by decide +kernel
theorem test_tick_tk4 : answers (exec (.tick (List.replicate 8 1001) 1001 [] [])
    { sent e1 3 with rxQueue := [0x5A, 0x42, 0x20, 0x00, 0x00, 0x01, 0x01, 0x42] }) (fun t =>
      t.evOut == [.resync .retryExhausted] && !t.framePending && t.resOut == []) = true := by decide +kernel
theorem test_csSet_cs1 : answers (exec (.csSet (.sessionId 0xA1B2C3)) cold) (fun t => t.sessionId == 0xA1B2C3) = true := by
  decide +kernel
theorem test_rxStart : answers (exec (.rxStart 0x5A 3) cold)
    (fun t => t.rxState == .accum && t.rxCount == 1 && t.rxBuf.read 0 == 0x5A && t.rxLastTime == 3) = true := by decide +kernel
theorem test_rxResync_rx5 : answers (exec (.rxResync 0x66 10) (sent e1 0)) (fun t => t.txCounter == 0xFF && !t.awaiting &&
    t.retryCount == 0 && t.lastLen == 0 && t.evOut == [.resync .marker]) = true := by decide +kernel
theorem test_rxNoise_rx7b : answers (exec (.rxNoise 0x11 0) cold) (fun t => t.diagOut == [.noise 0x11]) = true := by
  decide +kernel
/-- The last byte of RX7. -/
theorem test_rxData_rx7 : answers (exec (.rxData 0xFB 0) (midFrame 5 [0x5A, 0x00, 0x01]))
    (fun t => t.diagOut == [.oversize 251] && t.rxState == .idle && t.rxCount == 0) = true := by decide +kernel
/-- The last byte of RX7c. -/
theorem test_rxData_rx7c : answers (exec (.rxData 0xFA 0) (midFrame 5 [0x5A, 0x00, 0x01]))
    (fun t => t.diagOut == [] && t.rxState == .accum && t.rxCount == 6) = true := by decide +kernel
theorem test_frameReq_rx10 : answers (exec (.frameReq 0x42 0x0020 0 [0x01] 0x42 5) (sent e1 0))
    (fun t => t.framePending && t.awaiting) = true := by decide +kernel
theorem test_frameRsp_rx9 : answers (exec (.frameRsp 0x55 0x0099 0 [] 0x38 5) (sent e1 0))
    (fun t => t.framePending && !t.awaiting && t.lastLen == 7 && t.txCounter == 0x00) = true := by decide +kernel
theorem test_resyncByte_rx5 : answers (exec (.resyncByte 10) (sent e1 0))
    (fun t => t.evOut == [.resync .marker] && !t.awaiting && t.rxState == .idle) = true := by decide +kernel
/-- The second triple of RG4. -/
theorem test_triple_rg4 : answers (exec (.triple 0x0100 [0x01, 0x02, 0x03, 0x04]) withRegistry)
    (fun t => t.resOut == [.count 1] && t.reg.map RegEntry.value == [[0x05], [0xAA, 0xBB], [0x01, 0x02, 0x03, 0x04]]) = true := by
  decide +kernel

/-! ## Witnesses: states and operands that meet the hypotheses of the statements, at the ends of their ranges -/

/-- A request is awaited and bytes wait; nothing is received yet. -/
def busy (bs : Bytes) : State := { sent e1 0 with rxQueue := bs }

theorem witness_inv_busy : (busy e3).Inv := by constructor <;> decide +kernel
theorem witness_inv_latched : (latched e3).Inv := by constructor <;> decide +kernel
theorem witness_inv_registry : withRegistry.Inv := by constructor <;> decide +kernel
theorem witness_inv_midFrame : (midFrame 3 [0x5A]).Inv := by constructor <;> decide +kernel

-- Each witness is named after its statement; one that serves several names them above it.

-- also EncodedFramesVerify
theorem witness_EncodeBuildsTheFrameOrFails : (List.replicate 250 (0 : Byte)).length ≤ 250 ∧
    250 < (List.replicate 251 (0 : Byte)).length := by decide +kernel

/-- The last and the length byte. -/
theorem witness_VerifyRejectsOneChangedByte :
    exec (.verify e1) cold = .next { cold with resOut := cold.resOut ++ [.bool true] } ∧
    6 < e1.length ∧ (0xA4 : Byte) ≠ e1.getD 6 0 ∧ 5 < e1.length ∧ (0x01 : Byte) ≠ e1.getD 5 0 :=
  ⟨rfl, by decide, by decide, by decide, by decide⟩

/-- Nothing pending; the shortest and the longest frame pending. -/
theorem witness_FieldsReadsTheLatch : cold.framePending = false ∧
    ((latched e1).framePending = true ∧ ((latched e1).pendLen : Nat) = ((latched e1).pendBuf.read 5).toNat + 7) ∧
    (latched (headerOf 250 ++ List.replicate 251 0)).framePending = true ∧
    ((latched (headerOf 250 ++ List.replicate 251 0)).pendLen : Nat) =
      ((latched (headerOf 250 ++ List.replicate 251 0)).pendBuf.read 5).toNat + 7 := by decide +kernel

theorem witness_BackpressureStopsTheReceiver : (latched e3).framePending = true := by decide

/-- A row that applies and one that does not. -/
theorem witness_RxByteRunsTheCaseOfItsByte : (midFrame 3 [0x5A]).framePending = false ∧
    RxClass.data = classify ref (stateAfterGap ref (midFrame 3 [0x5A]).rxContext 50) 0x5A ∧
    RxClass.data ≠ classify ref (stateAfterGap ref (midFrame 3 [0x5A]).rxContext 51) 0x5A ∧
    (midFrame 3 [0x5A]).inStreamOrder 0x5A = true ∧
    (waiting [0x13, 0x5A]).framePending = false ∧ (waiting [0x13, 0x5A]).rxQueue = 0x13 :: [0x5A] ∧
    (0x13 : Byte) ≠ 0x5A := by decide +kernel

/-- T_INTERBYTE is 50: 51 is the first reading that exceeds it, 50 the last that does not. -/
theorem witness_GapDropsThePartialFrame : (midFrame 3 [0x5A]).rxState = .accum ∧
    ref.tInterbyte.toNat < ((51 : Time) - (midFrame 3 [0x5A]).rxLastTime).toNat ∧
    ((50 : Time) - (midFrame 3 [0x5A]).rxLastTime).toNat ≤ ref.tInterbyte.toNat ∧ cold.rxState = .idle := by decide

/-- No byte waits, and the byte is the oldest that waits. -/
theorem witness_StartMarkerOpensAFrame : (busy []).framePending = false ∧ (busy []).rxState = .idle ∧
    (busy []).rxBuf.wf = true ∧ (busy []).inStreamOrder 0x5A = true ∧ (busy e3).inStreamOrder 0x5A = true := by decide

theorem witness_ResyncMarkerResynchronizes : (busy []).framePending = false ∧ ref.startMarker ≠ ref.resyncMarker ∧
    (busy []).rxState = .idle ∧ (busy []).Inv ∧ (busy []).inStreamOrder 0x66 = true ∧
    (busy [0x66, 0x66]).inStreamOrder 0x66 = true ∧ answers (exec (.rxByte 0x66 0) (busy [0x66, 0x66])) (fun t =>
      t.inStreamOrder 0x66 && t.rxQueue == [0x66]) = true :=
  ⟨by decide, by decide, by decide, by constructor <;> decide +kernel, by decide, by decide, by decide +kernel⟩

theorem witness_OtherFirstByteIsDiscarded : (busy []).framePending = false ∧ (busy []).rxState = .idle ∧
    (0x13 : Byte) ≠ ref.startMarker ∧ (0x13 : Byte) ≠ ref.resyncMarker ∧ (busy []).inStreamOrder 0x13 = true ∧
    (busy [0x13, 0x5A]).inStreamOrder 0x13 = true := by decide

/-- What the statements about a byte inside a frame suppose. -/
def InsideFrame (s : State) (now : Time) : Prop :=
  s.Inv ∧ s.framePending = false ∧ s.rxState = .accum ∧ (now - s.rxLastTime).toNat ≤ s.cfg.tInterbyte.toNat ∧
    ∀ b : Byte, s.inStreamOrder b = true

theorem insideFrame_second : InsideFrame (midFrame 1 [0x5A]) 50 :=
  ⟨by constructor <;> decide +kernel, by decide, by decide, by decide, fun _ => rfl⟩
theorem insideFrame_length : InsideFrame (midFrame 5 [0x5A]) 50 :=
  ⟨by constructor <;> decide +kernel, by decide, by decide, by decide, fun _ => rfl⟩
theorem insideFrame_last_but_one : InsideFrame (midFrame 255 (headerOf 250)) 50 :=
  ⟨by constructor <;> decide +kernel, by decide, by decide, by decide, fun _ => rfl⟩
theorem insideFrame_last_of_shortest : InsideFrame (midFrame 6 (headerOf 0)) 50 :=
  ⟨by constructor <;> decide +kernel, by decide, by decide, by decide, fun _ => rfl⟩
theorem insideFrame_last_of_longest : InsideFrame (midFrame 256 (headerOf 250)) 50 :=
  ⟨by constructor <;> decide +kernel, by decide, by decide, by decide, fun _ => rfl⟩

theorem witness_ResyncMarkerResynchronizes_data : InsideFrame (midFrame 1 [0x5A]) 50 ∧ ref.startMarker ≠ ref.resyncMarker ∧
    answers (exec (.rxByte 0x66 50) (midFrame 1 [0x5A])) (fun t => t.evOut == [] && t.rxBuf.read 1 == 0x66) = true :=
  ⟨insideFrame_second, by decide, by decide +kernel⟩

/-- The second byte, the largest legal length byte, the last but one byte of the longest frame. -/
theorem witness_DataByteIsAppended : InsideFrame (midFrame 1 [0x5A]) 50 ∧
    (((midFrame 1 [0x5A]).rxCount : Nat) = 5 → (0xFF : Byte).toNat ≤ 250) ∧ ((midFrame 1 [0x5A]).rxCount : Nat) ≤ 5 :=
  ⟨insideFrame_second, by decide, by decide⟩
theorem witness_DataByteIsAppended_length : InsideFrame (midFrame 5 [0x5A]) 50 ∧
    (((midFrame 5 [0x5A]).rxCount : Nat) = 5 → (250 : Byte).toNat ≤ 250) ∧ ((midFrame 5 [0x5A]).rxCount : Nat) ≤ 5 :=
  ⟨insideFrame_length, by decide, by decide⟩
theorem witness_DataByteIsAppended_late : InsideFrame (midFrame 255 (headerOf 250)) 50 ∧
    (((midFrame 255 (headerOf 250)).rxCount : Nat) = 5 → (0xFF : Byte).toNat ≤ 250) ∧
    ((midFrame 255 (headerOf 250)).rxCount : Nat) + 1 < ((midFrame 255 (headerOf 250)).rxBuf.read 5).toNat + 7 :=
  ⟨insideFrame_last_but_one, by decide, by decide +kernel⟩

/-- 251 is the least oversize length, 250 the largest legal one. -/
theorem witness_OversizeLengthIsDiscarded : InsideFrame (midFrame 5 [0x5A]) 50 ∧ (midFrame 5 [0x5A]).rxBuf.wf = true ∧
    ((midFrame 5 [0x5A]).rxCount : Nat) = 5 ∧ 250 < (251 : Byte).toNat ∧ (250 : Byte).toNat ≤ 250 :=
  ⟨insideFrame_length, by decide, by decide, by decide, by decide⟩

/-- The last byte of the shortest and of the longest frame, with a wrong and with the right checksum. -/
theorem witness_BadChecksumIsDiscarded : InsideFrame (midFrame 6 (headerOf 0)) 50 ∧
    6 ≤ ((midFrame 6 (headerOf 0)).rxCount : Nat) ∧
    ((midFrame 6 (headerOf 0)).rxCount : Nat) + 1 = ((midFrame 6 (headerOf 0)).rxBuf.read 5).toNat + 7 ∧
    ((((midFrame 6 (headerOf 0)).rxBuf.slice 0 6).map BitVec.toNat).sum + (0xA7 : Byte).toNat) % 256 ≠ 0 :=
  ⟨insideFrame_last_of_shortest, by decide, by decide +kernel, by decide +kernel⟩
theorem witness_BadChecksumIsDiscarded_longest : InsideFrame (midFrame 256 (headerOf 250)) 50 ∧
    6 ≤ ((midFrame 256 (headerOf 250)).rxCount : Nat) ∧
    ((midFrame 256 (headerOf 250)).rxCount : Nat) + 1 = ((midFrame 256 (headerOf 250)).rxBuf.read 5).toNat + 7 ∧
    ((((midFrame 256 (headerOf 250)).rxBuf.slice 0 256).map BitVec.toNat).sum + (0xAD : Byte).toNat) % 256 ≠ 0 :=
  ⟨insideFrame_last_of_longest, by decide, by decide +kernel, by decide +kernel⟩
theorem witness_ValidFrameIsLatched : InsideFrame (midFrame 6 (headerOf 0)) 50 ∧
    6 ≤ ((midFrame 6 (headerOf 0)).rxCount : Nat) ∧
    ((midFrame 6 (headerOf 0)).rxCount : Nat) + 1 = ((midFrame 6 (headerOf 0)).rxBuf.read 5).toNat + 7 ∧
    ((((midFrame 6 (headerOf 0)).rxBuf.slice 0 6).map BitVec.toNat).sum + (0xA6 : Byte).toNat) % 256 = 0 :=
  ⟨insideFrame_last_of_shortest, by decide, by decide +kernel, by decide +kernel⟩
theorem witness_ValidFrameIsLatched_longest : InsideFrame (midFrame 256 (headerOf 250)) 50 ∧
    6 ≤ ((midFrame 256 (headerOf 250)).rxCount : Nat) ∧
    ((midFrame 256 (headerOf 250)).rxCount : Nat) + 1 = ((midFrame 256 (headerOf 250)).rxBuf.read 5).toNat + 7 ∧
    ((((midFrame 256 (headerOf 250)).rxBuf.slice 0 256).map BitVec.toNat).sum + (0xAC : Byte).toNat) % 256 = 0 :=
  ⟨insideFrame_last_of_longest, by decide, by decide +kernel, by decide +kernel⟩

theorem witness_DrainIsALoopOfRxByte : (latched e3).framePending = true ∧ (sent e1 0).rxQueue = [] ∧
    (waiting [0x13, 0x5A]).framePending = false ∧ (waiting [0x13, 0x5A]).rxQueue = 0x13 :: [0x5A] ∧
    exec (.rxByte 0x13 7) (waiting [0x13, 0x5A]) =
      .next { waiting [0x13, 0x5A] with rxQueue := [0x5A], rxLastTime := 7, diagOut := [.noise 0x13] } :=
  ⟨by decide, rfl, rfl, rfl, rfl⟩
theorem witness_DrainTakesEverythingAvailable : (busy e3).Inv ∧
    (busy e3).rxQueue.length ≤ (List.replicate 9 (0 : Time)).length := ⟨witness_inv_busy, by decide⟩

/-- Every pause as long as T_INTERBYTE. -/
theorem witness_EncodedFrameIsReceivedWhole : (busy (e3 ++ [0x5A])).Inv ∧ (busy (e3 ++ [0x5A])).framePending = false ∧
    (busy (e3 ++ [0x5A])).rxState = .idle ∧ exec (.encode 0x07 0x8010 [0xAA, 0xBB]) (busy (e3 ++ [0x5A])) =
      .next { busy (e3 ++ [0x5A]) with resOut := (busy (e3 ++ [0x5A])).resOut ++ [.frame e3] } ∧
    (busy (e3 ++ [0x5A])).rxQueue = e3 ++ [0x5A] ∧ e3.length ≤ [50, 100, 150, 200, 250, 300, 350, 400].length + 1 ∧
    pausesWithin ref.tInterbyte 0 [50, 100, 150, 200, 250, 300, 350, 400] = true :=
  ⟨by constructor <;> decide +kernel, by decide, by decide, rfl, rfl, by decide, by decide⟩
theorem witness_ChangedFrameIsDiscarded : (busy (e3.set 8 0xA9)).Inv ∧ (busy (e3.set 8 0xA9)).framePending = false ∧
    (busy (e3.set 8 0xA9)).rxState = .idle ∧ exec (.encode 0x07 0x8010 [0xAA, 0xBB]) (busy (e3.set 8 0xA9)) =
      .next { busy (e3.set 8 0xA9) with resOut := (busy (e3.set 8 0xA9)).resOut ++ [.frame e3] } ∧
    8 ≠ 0 ∧ 8 ≠ 5 ∧ 8 < e3.length ∧ (0xA9 : Byte) ≠ e3.getD 8 0 ∧ (busy (e3.set 8 0xA9)).rxQueue = e3.set 8 0xA9 ∧
    e3.length ≤ [50, 100, 150, 200, 250, 300, 350, 400].length + 1 ∧
    pausesWithin ref.tInterbyte 0 [50, 100, 150, 200, 250, 300, 350, 400] = true :=
  ⟨by constructor <;> decide +kernel, by decide, by decide, rfl, by decide, by decide, by decide, by decide, rfl, by decide,
    by decide⟩

-- also ReplyEchoesThePeersCounter
theorem witness_SendTransmitsAndRecords : (List.replicate 250 (0 : Byte)).length ≤ 250 ∧
    (sent e1 0).lastBuf.wf = true := by decide +kernel
-- also ReplyOverflowFaults
theorem witness_SendOverflowFaults : 250 < (List.replicate 251 (0 : Byte)).length := by decide +kernel

/-- 1000 is the last reading that does not exceed T_RESPONSE, 3 the number of retries. -/
theorem witness_PollRetransmitsThenResynchronizes : cold.awaiting = false ∧
    ((1000 : Time) - (sent e1 0).lastTxTime).toNat ≤ ref.tResponse.toNat ∧
    ((sent e1 2).awaiting = true ∧ ref.tResponse.toNat < ((1001 : Time) - (sent e1 2).lastTxTime).toNat ∧
      (sent e1 2).retryCount.toNat < ref.maxRetries.toNat) ∧
    (sent e1 3).awaiting = true ∧ ref.tResponse.toNat < ((1001 : Time) - (sent e1 3).lastTxTime).toNat ∧
    ref.maxRetries.toNat ≤ (sent e1 3).retryCount.toNat := by decide +kernel

/-- A changed header byte and a changed payload byte. -/
theorem witness_ChangedFrameIsDiscarded_offsets : (1 < e3.length ∧ (0x08 : Byte) ≠ e3.getD 1 0) ∧
    (6 < e3.length ∧ (0xAB : Byte) ≠ e3.getD 6 0) ∧ (busy (e3.set 1 0x08)).rxQueue = e3.set 1 0x08 ∧
    (busy (e3.set 6 0xAB)).rxQueue = e3.set 6 0xAB := by decide

/-- The times of program P2. -/
theorem witness_SilenceEscalatesExactlyOnce : (sent e1 0).awaiting = true ∧ (sent e1 0).retryCount = 0 ∧
    [(1001 : Time), 2002, 3003, 4004].length = ref.maxRetries.toNat + 1 ∧
    pausesBeyond ref.tResponse (sent e1 0).lastTxTime [1001, 2002, 3003, 4004] = true := by decide +kernel
/-- Between the request and the timeout a SEND overflows, which moves `tx_counter`, and a byte of noise is taken. -/
theorem witness_RetransmissionRepeatsTheRequest : (List.replicate 250 (0 : Byte)).length ≤ 250 ∧ cold.lastBuf.wf = true ∧
    (∀ i ∈ [Instr.send 1 (List.replicate 251 0) true 200, .rxByte 0x13 300], i.recordsFrame = false) ∧
    answers (execAll [.send 1 [] false 100, .send 1 (List.replicate 251 0) true 200, .rxByte 0x13 300] cold) (fun u =>
      u.awaiting && u.txCounter == 0x01 && decide (u.retryCount.toNat < u.cfg.maxRetries.toNat) &&
      decide (u.cfg.tResponse.toNat < ((1101 : Time) - u.lastTxTime).toNat)) = true := by decide +kernel

/-- A known ID, a full table, a new ID with room for it. -/
theorem witness_DefineAddsOneUnvaluedEntry : (∃ e ∈ withRegistry.reg, e.id = 0x0080) ∧
    ((∀ e ∈ { withRegistry with cfg := { ref with regCap := 3 } }.reg, e.id ≠ 0x1234) ∧
      { withRegistry with cfg := { ref with regCap := 3 } }.reg.length =
        { withRegistry with cfg := { ref with regCap := 3 } }.cfg.regCap) ∧
    (∀ e ∈ withRegistry.reg, e.id ≠ 0x1234) ∧ withRegistry.reg.length ≠ withRegistry.cfg.regCap := by decide
theorem witness_GetReturnsTheValueOrNothing : (withRegistry.reg.map RegEntry.id).Nodup ∧
    (∃ e ∈ withRegistry.reg, e.id = 0x0080 ∧ e.valued = true) ∧
    (∃ e ∈ withRegistry.reg, e.id = 0x0100 ∧ e.valued = false) ∧ ∀ e ∈ withRegistry.reg, e.id ≠ 0x1234 := by decide
/-- The last index of the table and the first beyond it. -/
theorem witness_InfoAndAtReadTheTable : (withRegistry.reg.map RegEntry.id).Nodup ∧
    (∃ e ∈ withRegistry.reg, e.id = 0x0082) ∧ (∀ e ∈ withRegistry.reg, e.id ≠ 0x1234) ∧
    2 < withRegistry.reg.length ∧ withRegistry.reg.length ≤ 3 := by decide

/-- Accepted; rejected at an unknown ID; rejected at a wrong size behind a good request. -/
theorem witness_ApplyIsAllOrNothing : (withRegistry.reg.map RegEntry.id).Nodup ∧
    (∀ u ∈ coalesce [⟨0x0080, [0x01, 0x01]⟩, ⟨0x0080, [0x03]⟩],
      ∃ e ∈ withRegistry.reg, e.id = u.id ∧ u.bytes.length = e.size.toNat) ∧
    (coalesce [⟨0x0999, [0x01]⟩] = [] ++ ⟨0x0999, [0x01]⟩ :: [] ∧ ∀ e ∈ withRegistry.reg, e.id ≠ 0x0999) ∧
    coalesce [⟨0x0080, [0x01]⟩, ⟨0x0082, [0x02]⟩] = [⟨0x0080, [0x01]⟩] ++ ⟨0x0082, [0x02]⟩ :: [] ∧
    (∀ v ∈ [(⟨0x0080, [0x01]⟩ : Update)], ∃ e ∈ withRegistry.reg, e.id = v.id ∧ v.bytes.length = e.size.toNat) ∧
    ∃ e ∈ withRegistry.reg, e.id = 0x0082 ∧ [(0x02 : Byte)].length ≠ e.size.toNat := by decide +kernel

theorem witness_FlushAppliesAndDropsTheBatch : withRegistry.batchValid = false ∧
    { withRegistry with batch := [⟨0x0080, [0x01]⟩], batchValid := true }.batchValid = true := by decide

theorem witness_ParseAppliesEveryGoodTriple : (withRegistry.reg.map RegEntry.id).Nodup ∧
    (∀ p ∈ [((0x0080 : ParamId), List.replicate 255 (0 : Byte)), (0x0081, [])], p.2.length ≤ 255) ∧
    ∀ p : ParamId × Bytes, (withRegistry.reg.any fun e => e.id == p.1 && p.2.length == e.size.toNat) = true ↔
      ∃ e ∈ withRegistry.reg, e.id = p.1 ∧ p.2.length = e.size.toNat :=
  ⟨by decide, by decide +kernel, fun p => by simp [List.any_eq_true]⟩
/-- A tail shorter than a triple's header, and one whose value is one byte short. -/
theorem witness_ParseStopsAtATruncatedTriple : (∀ p ∈ [((0x0080 : ParamId), [(0x05 : Byte)])], p.2.length ≤ 255) ∧
    ([0x80, 0x00] : Bytes) ≠ [] ∧ ([0x80, 0x00] : Bytes).length < 3 ∧ ([0x82, 0x00, 0x02, 0x09] : Bytes) ≠ [] ∧
    ([0x82, 0x00, 0x02, 0x09] : Bytes).length < (([0x82, 0x00, 0x02, 0x09] : Bytes).getD 2 0).toNat + 3 ∧
    exec (.regParse ([((0x0080 : ParamId), [(0x05 : Byte)])].flatMap fun p => tripleBytes p.1 p.2)) withRegistry =
      .next { withRegistry with resOut := [.count 1] } :=
  ⟨by decide, by decide, by decide, by decide, by decide, rfl⟩
theorem witness_TripleIsTheBlockOfItsBytes : (List.replicate 255 (0 : Byte)).length ≤ 255 ∧
    decode ref coldRx ⟨.triple, [0x82, 0x01, 2, 0xAA]⟩ = .error .truncated := ⟨by decide +kernel, rfl⟩

/-- A tick at whose step (d) a frame is pending, and one at which none is; both from `busy e3` (witness_inv_busy). -/
theorem witness_TickRunsItsFourSteps : (busy e3).Inv ∧
    answers (exec (.tick (List.replicate 9 0) 0 [] [.regFlush]) (busy e3)) (fun t => t.resOut.length == 2) = true ∧
    answers (exec (.tick [] 0 [] [.regFlush]) (busy e3)) (fun t => t.resOut.length == 0) = true :=
  ⟨witness_inv_busy, by decide +kernel, by decide +kernel⟩

/-- A request and a response whose bytes sum to 0. -/
theorem witness_ArrivingFrameIsLatched : (sent e1 0).Inv ∧ (sent e1 0).framePending = false ∧ (sent e1 0).rxState = .idle ∧
    (sent e1 0).rxQueue = [] ∧ [(0x01 : Byte)].length ≤ 250 ∧
    ((frameBytes 0x5A 0x42 (commandWord false 0x0020) 0 [0x01] 0x42).map BitVec.toNat).sum % 256 = 0 ∧
    ((frameBytes 0x5A 0x55 (commandWord true 0x0099) 0 [] 0x38).map BitVec.toNat).sum % 256 = 0 :=
  ⟨by constructor <;> decide +kernel, by decide, by decide, rfl, by decide, by decide +kernel, by decide +kernel⟩
theorem witness_WireMessagesComplete : (latched e3).Inv ∧ (busy e3).Inv ∧
    decode (busy e3).cfg (busy e3).rxContext ⟨.frame, headerOf 251 ++ encTime 5⟩ = .error (.frameLength 251) ∧
    decode (busy e3).cfg (busy e3).rxContext ⟨.resync, [0x13] ++ encTime 5⟩ = .error (.notResync 0x13) :=
  ⟨witness_inv_latched, witness_inv_busy, rfl, rfl⟩
theorem witness_ResyncByteOnlyAtAFrameBoundary : (sent e1 0).Inv ∧ (sent e1 0).framePending = false ∧
    (sent e1 0).rxQueue = [] ∧ ref.startMarker ≠ ref.resyncMarker ∧ (sent e1 0).rxState = .idle :=
  ⟨by constructor <;> decide +kernel, by decide, rfl, by decide, by decide⟩
theorem witness_ResyncByteOnlyAtAFrameBoundary_data : InsideFrame (midFrame 1 [0x5A]) 50 ∧
    (midFrame 1 [0x5A]).rxQueue = [] ∧ ref.startMarker ≠ ref.resyncMarker := ⟨insideFrame_second, rfl, by decide⟩

/-- A step from a state that meets the invariant which drains a whole frame. -/
theorem witness_StepKeepsTheInvariant :
    { busy e3 with input := [.packet ⟨.op, [0x11, 9, 0, 0, 0] ++ List.replicate 36 0⟩] }.Inv ∧
    answers (step { busy e3 with input := [.packet ⟨.op, [0x11, 9, 0, 0, 0] ++ List.replicate 36 0⟩] })
      (fun t => t.framePending) = true := ⟨by constructor <;> decide +kernel, by decide +kernel⟩
theorem witness_StepRunsTheDecodedInstruction :
    { cold with input := [.packet ⟨.op, [0x41, 0, 0xC3, 0xB2, 0xA1]⟩] }.input =
      .packet ⟨.op, [0x41, 0, 0xC3, 0xB2, 0xA1]⟩ :: [] ∧
    decode cold.cfg cold.rxContext ⟨.op, [0x41, 0, 0xC3, 0xB2, 0xA1]⟩ = .ok (.csSet (.sessionId 0xA1B2C3)) ∧
    Instr.wf cold.cfg (.csSet (.sessionId 0xA1B2C3)) = true := ⟨rfl, rfl, by decide⟩
theorem witness_NothingHappensBetweenOperations : cold.input = [] ∧
    { cold with input := [.line [0x66]] }.input = .line [0x66] :: [] := by decide

/-- A longest frame; a received byte in either receiver state, on either side of the gap. -/
theorem witness_DecodeOfEncodeIsTheInstruction :
    Instr.wf ref (.frameRsp 0xFF 0x7FFF 0xFF (List.replicate 250 0xFF) 0xFF 0xFFFFFFFF) = true ∧
    Instr.standsIn ref coldRx (.frameRsp 0xFF 0x7FFF 0xFF (List.replicate 250 0xFF) 0xFF 0xFFFFFFFF) = true ∧
    Instr.wf ref (.rxData 0x5A 50) = true ∧ Instr.standsIn ref ⟨.accum, 0⟩ (.rxData 0x5A 50) = true ∧
    Instr.wf ref (.rxStart 0x5A 51) = true ∧ Instr.standsIn ref ⟨.accum, 0⟩ (.rxStart 0x5A 51) = true := by decide +kernel

/-- The index just above an assigned one. -/
theorem witness_UnassignedIndexIsRefused : (0x05 : Byte).toNat ∉ [0x01, 0x02, 0x03, 0x04, 0x10, 0x11, 0x12, 0x20, 0x21, 0x22,
    0x23, 0x30, 0x31, 0x32, 0x33, 0x34, 0x35, 0x36, 0x37, 0x38, 0x40, 0x41] := by decide

-- also TracesOnlyGrowAndParametersStay
theorem witness_FaultIsStickyAndAvoidable : exec .rxRelease { cold with fault := true } = .next { cold with fault := true } ∧
    cold.fault = false ∧ Instr.payloadsFit (.send 0 (List.replicate 250 0) false 0) = true ∧
    answers (exec (.send 0 (List.replicate 250 0) false 0) cold) (fun t => !t.fault) = true ∧
    250 < (List.replicate 251 (0 : Byte)).length :=
  ⟨rfl, by decide, by decide +kernel, by decide +kernel, by decide +kernel⟩
theorem witness_MembershipIsImmutable : Instr.clearsRegistry (.regDefine 0x0090 0 0) = false ∧
    answers (exec (.regDefine 0x0090 0 0) withRegistry) (fun t => t.members.length == 4) = true := by decide +kernel
theorem witness_RegistryOperationsStayInTheRegistry : Instr.onRegistry .regFlush = true ∧
    Instr.onRegistry (.triple 0 []) = true := by decide
/-- A checksum error raises a diagnostic and no event. -/
theorem witness_FramingErrorsStayInTheReceiver : answers (exec (.rxByte 0xA4 0) (midFrame 6 [0x5A, 0x00, 0x01])) (fun t =>
    t.diagOut != (midFrame 6 [0x5A, 0x00, 0x01]).diagOut && t.evOut == (midFrame 6 [0x5A, 0x00, 0x01]).evOut) = true := by
  decide +kernel
theorem witness_NoInstructionOverrunsTheBuffer : (midFrame 256 (headerOf 250)).Inv := insideFrame_last_of_longest.1
/-- Both triggers raise an event. -/
theorem witness_ResynchronizationKeepsTheRest : answers (exec (.rxByte 0x66 0) cold) (fun t => t.evOut != cold.evOut) = true ∧
    answers (exec (.txPoll 1001) (sent e1 3)) (fun t => t.evOut != (sent e1 3).evOut) = true := by decide +kernel

end Sys2Proof.Tests
end

section
/-! The command port (log 5): what a step does with the packet at the head of the input. -/

namespace Sys2Proof.Machine

/-- The packet branch of `step` where the fetch succeeds. Well-formedness plays no part: what a fetched instruction does,
well-formed or not, is `exec`'s alone. -/
theorem step_of_fetch_ok {s : State} {p : Packet} {later : List Input} {i : Instr}
    (hinput : s.input = .packet p :: later) (hfetch : s.fetch p = .ok i) :
    step s = exec i { s with input := later } := by
  simp only [step, hinput, hfetch]

/-- Settles O49: `State.fetch` is the decoder under the state's own parameters and receiver context, so the decoded
instruction is the fetched one. -/
theorem stepRunsTheDecodedInstruction : Obligations.StepRunsTheDecodedInstruction := by
  intro s p later i hinput hdecode _
  have hfetch : s.fetch p = .ok i := hdecode
  exact step_of_fetch_ok hinput hfetch

end Sys2Proof.Machine
end

section
/-! The actions instructions are made of (a received byte, a poll, a client operation, ...): what every action keeps,
every instruction keeps. -/

namespace Sys2Proof

/-- The client operations an instruction performs, in order: itself, or those of a tick's two lists (R241). -/
def Instr.clientOps : Instr → List ClientOp
  | .fields => [.fields]
  | .send command payload posted now => [.send command payload posted now]
  | .sendReply counter command payload now => [.sendReply counter command payload now]
  | .regClear => [.regClear]
  | .regDefine id tag size => [.regDefine id tag size]
  | .regGet id => [.regGet id]
  | .regQueue updates => [.regQueue updates]
  | .regApply updates => [.regApply updates]
  | .regFlush => [.regFlush]
  | .regParse block => [.regParse block]
  | .regInfo id => [.regInfo id]
  | .regAt k => [.regAt k]
  | .csSet w => [.csSet w]
  | .tick _ _ stepC stepD => stepC ++ stepD
  | .cksum _ | .encode .. | .verify _ | .rxByte .. | .rxDrain _ | .rxRelease | .txPoll _ | .resync _ | .rxStart ..
  | .rxResync .. | .rxNoise .. | .rxData .. | .frameReq .. | .frameRsp .. | .resyncByte _ | .triple .. => []

/-- An instruction that performs a client operation is that operation or a tick that lists it. -/
theorem Instr.mem_clientOps {i : Instr} {o : ClientOp} (ho : o ∈ i.clientOps) :
    i = o.toInstr ∨
      ∃ drainTimes pollTime stepC stepD, i = .tick drainTimes pollTime stepC stepD ∧ (o ∈ stepC ∨ o ∈ stepD) := by
  cases i with
  | tick _ _ stepC stepD => exact .inr ⟨_, _, stepC, stepD, rfl, List.mem_append.1 ho⟩
  | cksum _ | encode _ _ _ | verify _ | rxByte _ _ | rxDrain _ | rxRelease | txPoll _ | resync _ | rxStart _ _
  | rxResync _ _ | rxNoise _ _ | rxData _ _ | frameReq _ _ _ _ _ _ | frameRsp _ _ _ _ _ _ | resyncByte _ | triple _ _ =>
    cases ho
  | _ => rw [List.mem_singleton.1 ho]; exact .inl rfl

@[simp] theorem ClientOp.payloadsFit_toInstr (o : ClientOp) : o.toInstr.payloadsFit = o.payloadFits := by cases o <;> rfl

/-- The payloads of an instruction are those of the client operations it performs. -/
theorem Instr.payloadFits_of_mem {i : Instr} (hfit : i.payloadsFit = true) {o : ClientOp} (ho : o ∈ i.clientOps) :
    o.payloadFits = true := by
  rcases mem_clientOps ho with rfl | ⟨_, _, stepC, stepD, rfl, hmem⟩
  · rwa [ClientOp.payloadsFit_toInstr] at hfit
  · obtain ⟨hC, hD⟩ := Bool.and_eq_true_iff.1 hfit
    exact hmem.elim (List.all_eq_true.1 hC o) (List.all_eq_true.1 hD o)

/-- An instruction clears the registry only by performing REG_CLEAR. -/
theorem Instr.ne_regClear_of_mem {i : Instr} (hclear : i.clearsRegistry = false) {o : ClientOp} (ho : o ∈ i.clientOps) :
    o ≠ .regClear := by
  rintro rfl
  rcases mem_clientOps ho with rfl | ⟨_, _, stepC, stepD, rfl, hmem⟩
  · cases hclear
  · obtain ⟨hC, hD⟩ := Bool.or_eq_false_iff.1 hclear
    exact hmem.elim (of_decide_eq_false hC) (of_decide_eq_false hD)

namespace Machine

/-- `P` is kept by every action that instructions are made of, the client operations among `ops`. -/
structure KeptByActions (P : State → Prop) (ops : ClientOp → Prop) : Prop where
  queue : ∀ s q, P s → P { s with rxQueue := q }
  result : ∀ s r, P s → P (s.result r)
  byte : ∀ s t b now, P s → rxByte b now s = .next t → P t
  release : ∀ s, P s → P (rxRelease s)
  poll : ∀ s now, P s → P (txPoll now s)
  triple : ∀ s id v, P s → P (applyTriple id v s).1
  client : ∀ s o, ops o → P s → P (clientOp o s)

/-- FIELDS only answers (R128). -/
theorem fields_eq_result (s : State) : ∃ r, fields s = s.result r := by
  unfold fields
  split
  · exact ⟨_, rfl⟩
  · exact ⟨_, rfl⟩

/-- ENCODE only answers (R123). -/
theorem execEncode_eq_result (counter : Byte) (command : BitVec 16) (payload : Bytes) (s : State) :
    ∃ r, execEncode counter command payload s = .next (s.result r) := by
  unfold execEncode
  split
  · exact ⟨_, rfl⟩
  · exact ⟨_, rfl⟩

section
variable {P : State → Prop} {ops : ClientOp → Prop}

theorem KeptByActions.rxDrain (hP : KeptByActions P ops) {times : List Time} {s t : State} (hs : P s)
    (h : rxDrain times s = .next t) : P t :=
  rxDrain_induct (fun s b rest now t hs _ _ hb => hP.byte _ t b now (hP.queue s rest hs) hb) hs h

theorem KeptByActions.receiveMessage (hP : KeptByActions P ops) {message : Bytes} {now : Time} {s t : State} (hs : P s)
    (h : receiveMessage message now s = .next t) : P t :=
  hP.rxDrain (hP.queue s (s.rxQueue ++ message) hs) h

theorem KeptByActions.execRxByte (hP : KeptByActions P ops) {b : Byte} {now : Time} {s t : State} (hs : P s)
    (h : exec (.rxByte b now) s = .next t) : P t :=
  hP.byte _ t b now (hP.queue s s.rxQueue.tail hs) (exec_rxByte_next h).2

theorem KeptByActions.execRxClass (hP : KeptByActions P ops) (k : RxClass) {b : Byte} {now : Time} {s t : State} (hs : P s)
    (h : exec (k.toInstr b now) s = .next t) : P t :=
  hP.execRxByte hs (exec_rxClass_next h)

theorem KeptByActions.fields (hP : KeptByActions P ops) {s : State} (hs : P s) : P (fields s) := by
  obtain ⟨r, h⟩ := fields_eq_result s
  rw [h]
  exact hP.result s r hs

theorem KeptByActions.clientOps (hP : KeptByActions P ops) {os : List ClientOp} (hos : ∀ o ∈ os, ops o) {s : State}
    (hs : P s) : P (clientOps os s) := by
  induction os generalizing s with
  | nil => exact hs
  | cons o os ih =>
    rw [List.forall_mem_cons] at hos
    exact ih hos.2 (hP.client s o hos.1 hs)

theorem KeptByActions.dispatchPending (hP : KeptByActions P ops) {handler : List ClientOp} (hos : ∀ o ∈ handler, ops o)
    {s : State} (hs : P s) : P (dispatchPending handler s) := by
  unfold Machine.dispatchPending
  split
  · exact hP.release _ (hP.clientOps hos (hP.fields hs))
  · exact hs

/-- What every action keeps, every instruction keeps. -/
theorem KeptByActions.exec (hP : KeptByActions P ops) {i : Instr} (hops : ∀ o ∈ i.clientOps, ops o) {s t : State}
    (hs : P s) (h : exec i s = .next t) : P t := by
  cases i with
  | cksum _ | verify _ => cases h; exact hP.result s _ hs
  | encode counter command payload =>
    obtain ⟨r, hr⟩ := execEncode_eq_result counter command payload s
    cases hr.symm.trans h
    exact hP.result s r hs
  | rxByte b now => exact hP.execRxByte hs h
  | rxStart b now => exact hP.execRxClass .start hs h
  | rxResync b now => exact hP.execRxClass .resync hs h
  | rxNoise b now => exact hP.execRxClass .noise hs h
  | rxData b now => exact hP.execRxClass .data hs h
  | rxDrain times => exact hP.rxDrain hs h
  | frameReq _ _ _ _ _ _ | frameRsp _ _ _ _ _ _ | resyncByte _ => exact hP.receiveMessage hs h
  | rxRelease => cases h; exact hP.release s hs
  | txPoll now => cases h; exact hP.poll s now hs
  | resync _ => cases h
  | triple id v => cases h; exact hP.result _ _ (hP.triple s id v hs)
  | tick drainTimes pollTime stepC stepD =>
    obtain ⟨u, hu, rfl⟩ := tick_eq_next.1 h
    obtain ⟨hC, hD⟩ := List.forall_mem_append.1 hops
    exact hP.dispatchPending hD (hP.clientOps hC (hP.poll u pollTime (hP.rxDrain hs hu)))
  | _ =>
    -- the thirteen client operations
    cases h
    have ho := hops _ (List.mem_singleton_self _)
    exact hP.client s _ ho hs

end

end Machine
end Sys2Proof
end

section
/-! What every instruction keeps of the output traces, the parameters, the fault and the registry's membership. -/

namespace Sys2Proof.Machine

/-! ## Operations that only answer -/

/-- `t` is `s` with one answer at the result port and at most one diagnostic: what an operation that only reads does, and
what the others do when they reject. -/
def Answered (s t : State) : Prop := ∃ r, t = s.result r ∨ ∃ d, t = (s.diag d).result r

theorem Answered.of_result (s : State) (r : Result) : Answered s (s.result r) := ⟨r, .inl rfl⟩

theorem Answered.of_diag (s : State) (d : Diag) (r : Result) : Answered s ((s.diag d).result r) := ⟨r, .inr ⟨d, rfl⟩⟩

theorem fields_answered (s : State) : Answered s (fields s) := by
  obtain ⟨r, h⟩ := fields_eq_result s
  exact ⟨r, .inl h⟩

theorem regGet_answered (id : ParamId) (s : State) : Answered s (regGet id s) := by
  unfold regGet
  split
  · exact .of_diag ..
  · split
    · exact .of_result ..
    · exact .of_diag ..

theorem regInfo_answered (id : ParamId) (s : State) : Answered s (regInfo id s) := by
  unfold regInfo
  split <;> exact .of_result ..

theorem regAt_answered (k : Nat) (s : State) : Answered s (regAt k s) := by
  unfold regAt
  split <;> exact .of_result ..

/-! ## The registry's operations -/

/-- REG_DEFINE: a rejection, or a fresh entry at the end of a table that is not full (R203). -/
theorem regDefine_cases (id : ParamId) (tag size : Byte) (s : State) :
    Answered s (regDefine id tag size s) ∨
    ((∀ e ∈ s.reg, e.id ≠ id) ∧ s.regN ≠ s.cfg.regCap ∧
      regDefine id tag size s = State.result { s with reg := s.reg ++ [⟨id, tag, size, false, []⟩] } (.bool true)) := by
  unfold regDefine
  split
  · exact .inl (.of_diag ..)
  · next hnew =>
    split
    · exact .inl (.of_diag ..)
    · next hroom => exact .inr ⟨lookup_none_iff.1 (by simpa using hnew), hroom, rfl⟩

/-- REG_FLUSH: NOTHING, or REG_APPLY with the batch gone (R220). -/
theorem regFlush_cases (s : State) :
    regFlush s = s.result .nothing ∨ regFlush s = { regApply s.batch s with batch := [], batchValid := false } := by
  unfold regFlush
  split
  · exact .inr rfl
  · exact .inl rfl

/-- REG_PARSE is its loop and an answer (R225). -/
theorem regParse_eq (block : Bytes) (s : State) : regParse block s =
    (parseBlock block.length 0 block 0 s).1.result (.count (parseBlock block.length 0 block 0 s).2) := rfl

theorem Answered.registryFrame {s t : State} (h : Answered s t) : RegistryFrame s t := by
  obtain ⟨r, rfl | ⟨d, rfl⟩⟩ := h
  · exact result_registryFrame r s
  · exact (diag_registryFrame d s).trans (result_registryFrame r _)

theorem regDefine_registryFrame (id : ParamId) (tag size : Byte) (s : State) :
    RegistryFrame s (regDefine id tag size s) := by
  rcases regDefine_cases id tag size s with h | ⟨_, _, h⟩
  · exact h.registryFrame
  · rw [h]
    exact ⟨rfl, by simp, List.prefix_rfl⟩

theorem regQueue_registryFrame (us : List Update) (s : State) : RegistryFrame s (regQueue us s) :=
  ⟨rfl, List.prefix_rfl, List.prefix_rfl⟩

theorem regFlush_registryFrame (s : State) : RegistryFrame s (regFlush s) := by
  rcases regFlush_cases s with h | h <;> rw [h]
  · exact result_registryFrame _ s
  · exact (regApply_registryFrame s.batch s).trans ⟨rfl, List.prefix_rfl, List.prefix_rfl⟩

theorem regParse_registryFrame (block : Bytes) (s : State) : RegistryFrame s (regParse block s) := by
  rw [regParse_eq]
  exact (parseBlock_registryFrame ..).trans (result_registryFrame _ _)

/-! ## SEND, SEND_REPLY and CS_SET -/

/-- The encode of an `n`-byte payload failed, whatever became of the counter (R172, R177). -/
def Overflowed (n : Nat) (s t : State) : Prop := ∃ counter, t = State.raiseEncodeOverflow { s with txCounter := counter } n

/-- A frame was encoded, transmitted and recorded, with or without a response expected (R171, R176). -/
def Recorded (s t : State) : Prop :=
  ∃ counter f now, f.length ≤ Config.cap ∧ verifyFrame f = true ∧
    (t = State.transmit { s with txCounter := counter } f now ∨
      t = (State.transmit { s with txCounter := counter } f now).expectResponse)

theorem Recorded.of_encodeFrame {c : Config.Params} {seq : Byte} {command : BitVec 16} {payload f : Bytes}
    (hf : encodeFrame c seq command payload = some f) {s t : State} (counter : Byte) (now : Time) (expects : Bool)
    (ht : t = if expects then (State.transmit { s with txCounter := counter } f now).expectResponse
      else State.transmit { s with txCounter := counter } f now) : Recorded s t := by
  refine ⟨counter, f, now, encodeFrame_length_le_cap hf, verifyFrame_encodeFrame hf, ?_⟩
  cases expects with
  | false => exact .inl ht
  | true => exact .inr ht

theorem send_overflowed_or_recorded (command : BitVec 16) (payload : Bytes) (posted : Bool) (now : Time) (s : State) :
    Config.maxPayload < payload.length ∧ Overflowed payload.length s (send command payload posted now s) ∨
      Recorded s (send command payload posted now s) := by
  rcases send_cases command payload posted now s with ⟨hlong, h⟩ | ⟨f, hf, h⟩
  · exact .inl ⟨hlong, _, h⟩
  · exact .inr (.of_encodeFrame hf (s.txCounter + 1) now (!posted) (by rw [h]; cases posted <;> rfl))

theorem sendReply_overflowed_or_recorded (counter : Byte) (command : BitVec 16) (payload : Bytes) (now : Time) (s : State) :
    Config.maxPayload < payload.length ∧ Overflowed payload.length s (sendReply counter command payload now s) ∨
      Recorded s (sendReply counter command payload now s) := by
  rcases sendReply_cases counter command payload now s with ⟨hlong, h⟩ | ⟨f, hf, h⟩
  · exact .inl ⟨hlong, s.txCounter, h⟩
  · exact .inr (.of_encodeFrame hf s.txCounter now s.cfg.replyAwaits h)

/-- CS_SET writes the session and the two times only (R245). -/
theorem csSet_eq (w : CsWrite) (s : State) : ∃ session ping poll,
    csSet w s = { s with sessionId := session, lastPingTime := ping, lastPollTime := poll } := by
  cases w <;> exact ⟨_, _, _, rfl⟩

/-- Everything a client operation can do: empty the registry, write the connection state, overflow, record a frame, or
stay in the registry and keep its members (R200, R241). -/
theorem clientOp_cases (o : ClientOp) (s : State) :
    o = .regClear ∨
    (∃ session ping poll,
      clientOp o s = { s with sessionId := session, lastPingTime := ping, lastPollTime := poll }) ∨
    (o.payloadFits = false ∧ ∃ n, Overflowed n s (clientOp o s)) ∨
    Recorded s (clientOp o s) ∨
    RegistryFrame s (clientOp o s) := by
  cases o with
  | regClear => exact .inl rfl
  | csSet w => exact .inr (.inl (csSet_eq w s))
  | send command payload posted now =>
    rcases send_overflowed_or_recorded command payload posted now s with ⟨hlong, h⟩ | h
    · exact .inr (.inr (.inl ⟨decide_eq_false (Nat.not_le_of_lt hlong), _, h⟩))
    · exact .inr (.inr (.inr (.inl h)))
  | sendReply counter command payload now =>
    rcases sendReply_overflowed_or_recorded counter command payload now s with ⟨hlong, h⟩ | h
    · exact .inr (.inr (.inl ⟨decide_eq_false (Nat.not_le_of_lt hlong), _, h⟩))
    · exact .inr (.inr (.inr (.inl h)))
  | fields => exact .inr (.inr (.inr (.inr (fields_answered s).registryFrame)))
  | regGet id => exact .inr (.inr (.inr (.inr (regGet_answered id s).registryFrame)))
  | regInfo id => exact .inr (.inr (.inr (.inr (regInfo_answered id s).registryFrame)))
  | regAt k => exact .inr (.inr (.inr (.inr (regAt_answered k s).registryFrame)))
  | regDefine id tag size => exact .inr (.inr (.inr (.inr (regDefine_registryFrame id tag size s))))
  | regQueue us => exact .inr (.inr (.inr (.inr (regQueue_registryFrame us s))))
  | regApply us => exact .inr (.inr (.inr (.inr (regApply_registryFrame us s))))
  | regFlush => exact .inr (.inr (.inr (.inr (regFlush_registryFrame s))))
  | regParse block => exact .inr (.inr (.inr (.inr (regParse_registryFrame block s))))

/-! ## What only grows (R45, R47, R305) -/

/-- From `s` to `t` the output traces grew at their ends (R47), the fault was not cleared (R45) and the parameters
stayed (R305). -/
structure Grows (s t : State) : Prop where
  txOut : s.txOut <+: t.txOut
  evOut : s.evOut <+: t.evOut
  diagOut : s.diagOut <+: t.diagOut
  fault : s.fault = true → t.fault = true
  cfg : t.cfg = s.cfg

theorem Grows.refl (s : State) : Grows s s := ⟨List.prefix_rfl, List.prefix_rfl, List.prefix_rfl, id, rfl⟩

theorem Grows.trans {s t u : State} (h : Grows s t) (h' : Grows t u) : Grows s u :=
  ⟨h.txOut.trans h'.txOut, h.evOut.trans h'.evOut, h.diagOut.trans h'.diagOut, h'.fault ∘ h.fault, h'.cfg.trans h.cfg⟩

theorem RegistryFrame.grows {s t : State} (h : RegistryFrame s t) : Grows s t := by
  obtain ⟨heq, -, hdiag⟩ := h
  rw [heq]
  exact ⟨List.prefix_rfl, List.prefix_rfl, hdiag, id, rfl⟩

theorem RegistryFrame.fault {s t : State} (h : RegistryFrame s t) : t.fault = s.fault := by rw [h.eq]

theorem ReceiverFrame.grows {s t : State} (h : ReceiverFrame s t) : Grows s t :=
  ⟨by rw [h.txOut], h.evOut, h.diagOut, fun hf => h.fault.trans hf, h.cfg⟩

theorem Overflowed.grows {n : Nat} {s t : State} (h : Overflowed n s t) : Grows s t := by
  obtain ⟨_, rfl⟩ := h
  exact ⟨List.prefix_rfl, List.prefix_rfl, List.prefix_append .., fun _ => rfl, rfl⟩

theorem Recorded.grows {s t : State} (h : Recorded s t) : Grows s t := by
  obtain ⟨_, f, now, -, -, rfl | rfl⟩ := h
  · exact ⟨List.prefix_append .., List.prefix_rfl, List.prefix_rfl, id, rfl⟩
  · exact ⟨List.prefix_append .., List.prefix_rfl, List.prefix_rfl, id, rfl⟩

theorem txPoll_grows (now : Time) (s : State) : Grows s (txPoll now s) := by
  rcases txPoll_cases now s with ⟨-, h⟩ | ⟨-, -, h⟩ | ⟨-, -, h⟩ <;> rw [h]
  · exact .refl s
  · exact ⟨List.prefix_append .., List.prefix_rfl, List.prefix_append .., id, rfl⟩
  · exact ⟨List.prefix_rfl, List.prefix_append .., List.prefix_rfl, id, rfl⟩

theorem clientOp_grows (o : ClientOp) (s : State) : Grows s (clientOp o s) := by
  rcases clientOp_cases o s with rfl | ⟨_, _, _, h⟩ | ⟨-, n, h⟩ | h | h
  · exact ⟨List.prefix_rfl, List.prefix_rfl, List.prefix_rfl, id, rfl⟩
  · rw [h]
    exact ⟨List.prefix_rfl, List.prefix_rfl, List.prefix_rfl, id, rfl⟩
  · exact h.grows
  · exact h.grows
  · exact h.grows

/-- From a state `s` on, every action only grows what it has. -/
theorem keptByActions_grows (s : State) : KeptByActions (Grows s) fun _ => True where
  queue _ _ h := ⟨h.txOut, h.evOut, h.diagOut, h.fault, h.cfg⟩
  result _ _ h := ⟨h.txOut, h.evOut, h.diagOut, h.fault, h.cfg⟩
  byte _ _ _ _ h hb :=
    have hg := (rxByte_receiverFrame hb).grows
    h.trans ⟨hg.txOut, hg.evOut, hg.diagOut, hg.fault, hg.cfg⟩
  release _ h := ⟨h.txOut, h.evOut, h.diagOut, h.fault, h.cfg⟩
  poll u now h := h.trans (txPoll_grows now u)
  triple u id v h := h.trans (applyTriple_registryFrame id v u).grows
  client u o _ h := h.trans (clientOp_grows o u)

theorem exec_grows {i : Instr} {s t : State} (h : exec i s = .next t) : Grows s t :=
  (keptByActions_grows s).exec (fun _ _ => trivial) (.refl s) h

/-- Settles O55: traces and parameters are parts of what only grows. -/
theorem tracesOnlyGrowAndParametersStay : Obligations.TracesOnlyGrowAndParametersStay := by
  intro i s t h
  have hg := exec_grows h
  exact ⟨hg.txOut, hg.evOut, hg.diagOut, hg.cfg⟩

/-! ## The fault is set by an overflow only (R45) -/

theorem txPoll_fault (now : Time) (s : State) : (txPoll now s).fault = s.fault := by
  rcases txPoll_cases now s with ⟨-, h⟩ | ⟨-, -, h⟩ | ⟨-, -, h⟩ <;> rw [h] <;> rfl

theorem clientOp_fault {o : ClientOp} (hfit : o.payloadFits = true) (s : State) : (clientOp o s).fault = s.fault := by
  rcases clientOp_cases o s with rfl | ⟨_, _, _, h⟩ | ⟨hlong, -⟩ | ⟨_, _, _, -, -, h | h⟩ | h
  · rfl
  · rw [h]
  · rw [hfit] at hlong
    cases hlong
  · rw [h]
    rfl
  · rw [h]
    rfl
  · exact h.fault

theorem keptByActions_noFault : KeptByActions (fun t => t.fault = false) fun o => o.payloadFits = true where
  queue _ _ h := h
  result _ _ h := h
  byte _ _ _ _ h hb := (rxByte_receiverFrame hb).fault.trans h
  release _ h := h
  poll u now h := (txPoll_fault now u).trans h
  triple u id v h := (applyTriple_registryFrame id v u).fault.trans h
  client u _ hfit h := (clientOp_fault hfit u).trans h

/-- With payloads that fit, no instruction sets the fault. -/
theorem exec_keeps_noFault {i : Instr} {s t : State} (h : exec i s = .next t) (hfit : i.payloadsFit = true)
    (hs : s.fault = false) : t.fault = false :=
  keptByActions_noFault.exec (fun _ ho => Instr.payloadFits_of_mem hfit ho) hs h

theorem send_fault_of_overflow {payload : Bytes} (hlong : Config.maxPayload < payload.length) (command : BitVec 16)
    (posted : Bool) (now : Time) (s : State) : (send command payload posted now s).fault = true := by
  rcases send_cases command payload posted now s with ⟨-, h⟩ | ⟨f, hf, -⟩
  · rw [h]
    rfl
  · rw [(encodeFrame_none_iff ..).2 hlong] at hf
    cases hf

theorem sendReply_fault_of_overflow {payload : Bytes} (hlong : Config.maxPayload < payload.length) (counter : Byte)
    (command : BitVec 16) (now : Time) (s : State) : (sendReply counter command payload now s).fault = true := by
  rcases sendReply_cases counter command payload now s with ⟨-, h⟩ | ⟨f, hf, -⟩
  · rw [h]
    rfl
  · rw [(encodeFrame_none_iff ..).2 hlong] at hf
    cases hf

/-- Settles O54: the fault is part of what only grows, and only the overflow of SEND and SEND_REPLY sets it. -/
theorem faultIsStickyAndAvoidable : Obligations.FaultIsStickyAndAvoidable := by
  refine ⟨fun i s t h => ⟨(exec_grows h).fault, fun hs hfit => exec_keeps_noFault h hfit hs⟩, ?_, fun _ => rfl⟩
  intro counter command payload posted now s hlong
  exact ⟨⟨_, rfl, send_fault_of_overflow hlong command posted now s⟩,
    ⟨_, rfl, sendReply_fault_of_overflow hlong counter command now s⟩⟩

/-! ## Membership (R43) -/

theorem txPoll_reg (now : Time) (s : State) : (txPoll now s).reg = s.reg := by
  rcases txPoll_cases now s with ⟨-, h⟩ | ⟨-, -, h⟩ | ⟨-, -, h⟩ <;> rw [h] <;> rfl

theorem members_of_reg_eq {s t : State} (h : t.reg = s.reg) : s.members <+: t.members := by
  rw [State.members, State.members, h]

/-- But for REG_CLEAR a client operation only adds members, at the end. -/
theorem clientOp_members {o : ClientOp} (hclear : o ≠ .regClear) (s : State) : s.members <+: (clientOp o s).members := by
  rcases clientOp_cases o s with h | ⟨_, _, _, h⟩ | ⟨-, _, _, h⟩ | ⟨_, _, _, -, -, h | h⟩ | h
  · exact absurd h hclear
  · exact members_of_reg_eq (by rw [h])
  · exact members_of_reg_eq (by rw [h]; rfl)
  · exact members_of_reg_eq (by rw [h]; rfl)
  · exact members_of_reg_eq (by rw [h]; rfl)
  · exact h.members

theorem keptByActions_members (s : State) : KeptByActions (fun t => s.members <+: t.members) (· ≠ .regClear) where
  queue _ _ h := h
  result _ _ h := h
  byte _ _ _ _ h hb := h.trans (members_of_reg_eq (rxByte_receiverFrame hb).reg)
  release _ h := h
  poll u now h := h.trans (members_of_reg_eq (txPoll_reg now u))
  triple u id v h := h.trans (applyTriple_registryFrame id v u).members
  client u _ hclear h := h.trans (clientOp_members hclear u)

/-- Settles O56: of all actions only the client operation REG_CLEAR removes members. -/
theorem membershipIsImmutable : Obligations.MembershipIsImmutable := by
  intro i s t h hclear
  exact (keptByActions_members s).exec (fun _ ho => Instr.ne_regClear_of_mem hclear ho) List.prefix_rfl h

end Sys2Proof.Machine
end

section
/-! The invariant, part by part: each part speaks of the fields of one unit of the machine only, so that an operation has
to show the parts it touches and no others. -/

namespace Sys2Proof.Machine

/-! ## The parts -/

/-- What the invariant says of the receiver's fields (R23, R143, R146). -/
structure ReceiverInv (marker : Byte) (st : RxState) (n : Count) (buf : Memory) : Prop where
  bufWf : buf.wf = true
  idleIff : st = .idle ↔ (n : Nat) = 0
  partialFrame : st = .accum → (n : Nat) ≤ 5 ∨
    (n : Nat) < frameTotal (buf.read 5) ∧ frameTotal (buf.read 5) ≤ Config.cap
  partialMarker : st = .accum → buf.read 0 = marker

/-- What the invariant says of the pending-frame latch (R31). -/
structure LatchInv (marker : Byte) (pending : Bool) (n : Count) (buf : Memory) : Prop where
  bufWf : buf.wf = true
  length : pending = true → (n : Nat) = frameTotal (buf.read 5)
  marker : pending = true → buf.read 0 = marker
  valid : pending = true → verifyFrame (buf.slice 0 n) = true

/-- What the invariant says of the retransmission record (R36, R38, R39). -/
structure RecordInv (maxRetries retries : BitVec 8) (awaiting : Bool) (n : Count) (buf : Memory) : Prop where
  bufWf : buf.wf = true
  retryBound : retries.toNat ≤ maxRetries.toNat
  awaitingRecorded : awaiting = true → 7 ≤ (n : Nat)
  recordValid : (n : Nat) ≠ 0 → verifyFrame (buf.slice 0 n) = true

/-- What the invariant says of the registry's entries (R42, R43). -/
structure RegistryInv (cap : Nat) (reg : List RegEntry) : Prop where
  idsDistinct : (reg.map RegEntry.id).Nodup
  bound : reg.length ≤ cap
  valueSize : ∀ e ∈ reg, e.value.length = if e.valued then e.size.toNat else 0

theorem State.Inv.receiver {s : State} (h : s.Inv) : ReceiverInv s.cfg.startMarker s.rxState s.rxCount s.rxBuf :=
  ⟨h.rxBufWf, h.idleIff, h.partialFrame, h.partialMarker⟩

theorem State.Inv.latch {s : State} (h : s.Inv) : LatchInv s.cfg.startMarker s.framePending s.pendLen s.pendBuf :=
  ⟨h.pendBufWf, h.latchLength, h.latchMarker, h.latchValid⟩

theorem State.Inv.record {s : State} (h : s.Inv) :
    RecordInv s.cfg.maxRetries s.retryCount s.awaiting s.lastLen s.lastBuf :=
  ⟨h.lastBufWf, h.retryBound, h.awaitingRecorded, h.recordValid⟩

theorem State.Inv.registry {s : State} (h : s.Inv) : RegistryInv s.cfg.regCap s.reg :=
  ⟨h.idsDistinct, h.regBound, h.valueSize⟩

/-- The invariant is its parts. -/
theorem State.Inv.of_parts {s : State} (hrx : ReceiverInv s.cfg.startMarker s.rxState s.rxCount s.rxBuf)
    (hlatch : LatchInv s.cfg.startMarker s.framePending s.pendLen s.pendBuf)
    (hrec : RecordInv s.cfg.maxRetries s.retryCount s.awaiting s.lastLen s.lastBuf)
    (hreg : RegistryInv s.cfg.regCap s.reg) (hbatch : s.batchValid = batchValidOf s.batch) : s.Inv where
  rxBufWf := hrx.bufWf
  pendBufWf := hlatch.bufWf
  lastBufWf := hrec.bufWf
  idleIff := hrx.idleIff
  partialFrame := hrx.partialFrame
  partialMarker := hrx.partialMarker
  latchLength := hlatch.length
  latchMarker := hlatch.marker
  latchValid := hlatch.valid
  retryBound := hrec.retryBound
  awaitingRecorded := hrec.awaitingRecorded
  recordValid := hrec.recordValid
  idsDistinct := hreg.idsDistinct
  regBound := hreg.bound
  valueSize := hreg.valueSize
  batchFlag := hbatch

/-! ## The receiver's part -/

/-- The receiver after a reset (R140), whatever a canonical buffer holds. -/
theorem ReceiverInv.idle (marker : Byte) {buf : Memory} (hw : buf.wf = true) : ReceiverInv marker .idle 0 buf where
  bufWf := hw
  idleIff := ⟨fun _ => rfl, fun _ => rfl⟩
  partialFrame h := by cases h
  partialMarker h := by cases h

/-- The receiver after a start marker (R143). -/
theorem ReceiverInv.opened (marker : Byte) {buf : Memory} (hw : buf.wf = true) :
    ReceiverInv marker .accum 1 (buf.write 0 marker) where
  bufWf := Memory.write_wf hw marker (by decide)
  idleIff := ⟨nofun, fun h => absurd h Nat.one_ne_zero⟩
  partialFrame _ := .inl (by decide)
  partialMarker _ := Memory.read_write_same (Memory.wf_rising hw) 0 marker

/-- A frame under way just after its `n`-th byte was stored, before the length guard and the completion look at it
(R146). -/
structure Appended (marker : Byte) (n : Count) (buf : Memory) : Prop where
  bufWf : buf.wf = true
  nonempty : 0 < (n : Nat)
  bound : (n : Nat) ≤ 6 ∨ (n : Nat) ≤ frameTotal (buf.read 5) ∧ frameTotal (buf.read 5) ≤ Config.cap
  marker : buf.read 0 = marker

/-- Appending a byte to a partial frame changes neither its marker nor a length byte that is already there (R146). -/
theorem ReceiverInv.append {marker : Byte} {n : Count} {buf : Memory} (h : ReceiverInv marker .accum n buf)
    (hn : (n : Nat) < Config.cap) (b : Byte) :
    Appended marker ⟨n + 1, Nat.succ_lt_succ hn⟩ (buf.write n b) := by
  have hpos : (n : Nat) ≠ 0 := fun h0 => by cases h.idleIff.2 h0
  refine ⟨Memory.write_wf h.bufWf b hn, Nat.succ_pos _, ?_, ?_⟩
  · rcases h.partialFrame rfl with h5 | ⟨hlt, hcap⟩
    · exact .inl (Nat.succ_le_succ h5)
    · by_cases h5 : (n : Nat) ≤ 5
      · exact .inl (Nat.succ_le_succ h5)
      · rw [Memory.read_write_other buf b (by omega)]
        exact .inr ⟨hlt, hcap⟩
  · rw [Memory.read_write_other buf b hpos.symm]
    exact h.partialMarker rfl

/-- The byte was not the last: the frame is still a partial one, within the buffer (R146, R148). -/
theorem Appended.receiverInv {marker : Byte} {n : Count} {buf : Memory} (h : Appended marker n buf)
    (hguard : (n : Nat) = 6 → frameTotal (buf.read 5) ≤ Config.cap)
    (hmore : 7 ≤ (n : Nat) → (n : Nat) ≠ frameTotal (buf.read 5)) : ReceiverInv marker .accum n buf where
  bufWf := h.bufWf
  idleIff := ⟨nofun, fun hc => absurd hc (Nat.pos_iff_ne_zero.1 h.nonempty)⟩
  partialFrame _ := by
    have hbound := h.bound
    unfold frameTotal at *
    omega
  partialMarker _ := h.marker

/-! ## The latch's part -/

/-- No frame is pending. -/
theorem LatchInv.empty (marker : Byte) (n : Count) {buf : Memory} (hw : buf.wf = true) : LatchInv marker false n buf where
  bufWf := hw
  length h := by cases h
  marker h := by cases h
  valid h := by cases h

/-- A slice copied to the start of another buffer is read there. -/
theorem Memory.read_store_slice {p : Memory} (hp : p.wf = true) (m : Memory) {n k : Nat} (hk : k < n) :
    (p.store 0 (m.slice 0 n)).read k = m.read k := by
  have hstore := Memory.read_store_inside (Memory.wf_rising hp) 0 (m.slice 0 n) (k := k) (by simpa using hk)
  have hslice : (m.slice 0 n)[k]? = some (m.read (0 + k)) := Memory.slice_getElem? m 0 hk
  rw [List.getElem?_eq_getElem (by simpa using hk), Option.some.injEq] at hslice
  rw [Nat.zero_add] at hstore hslice
  exact hstore.trans hslice

/-- A complete frame whose checksum agrees passes VERIFY (R126, R149). -/
theorem verifyFrame_slice {m : Memory} {n : Nat} (hn : 7 ≤ n) (htotal : n = frameTotal (m.read 5))
    (hck : cksum (m.slice 0 (n - 1)) = m.read (n - 1)) : verifyFrame (m.slice 0 n) = true := by
  rw [verifyFrame_iff, Memory.slice_length, frameByte, Memory.slice_getD m 0 (by omega)]
  refine ⟨hn, htotal, ?_⟩
  obtain ⟨k, rfl⟩ : ∃ k, n = k + 1 := ⟨n - 1, by omega⟩
  rw [Nat.add_sub_cancel, cksum_eq_iff] at hck
  rw [Memory.slice_succ, byteSum_append, byteSum_cons, byteSum_nil, Nat.zero_add]
  exact hck

/-- The latch after a frame is complete (R150). -/
theorem Appended.latchInv {marker : Byte} {n : Count} {buf pend : Memory} (h : Appended marker n buf)
    (hpend : pend.wf = true) (hn : 7 ≤ (n : Nat)) (htotal : (n : Nat) = frameTotal (buf.read 5))
    (hck : cksum (buf.slice 0 (n - 1)) = buf.read (n - 1)) :
    LatchInv marker true n (pend.store 0 (buf.slice 0 n)) where
  bufWf := Memory.store_wf hpend (by rw [Memory.slice_length]; omega)
  length _ := by rw [Memory.read_store_slice hpend buf (by omega)]; exact htotal
  marker _ := by rw [Memory.read_store_slice hpend buf (by omega)]; exact h.marker
  valid _ := by
    have hcopy := Memory.slice_store (Memory.wf_rising hpend) 0 (buf.slice 0 n)
    rw [Memory.slice_length] at hcopy
    rw [hcopy]
    exact verifyFrame_slice hn htotal hck

/-! ## The record's part -/

/-- Nothing is recorded and no response awaited (R50, R190). -/
theorem RecordInv.empty (maxRetries : BitVec 8) {buf : Memory} (hw : buf.wf = true) :
    RecordInv maxRetries 0 false 0 buf where
  bufWf := hw
  retryBound := Nat.zero_le _
  awaitingRecorded h := by cases h
  recordValid h := absurd rfl h

/-- A frame that ENCODE returned is recorded (R171, R176), with or without a response awaited. -/
theorem RecordInv.recorded {maxRetries retries : BitVec 8} {buf : Memory} (hw : buf.wf = true)
    (hretry : retries.toNat ≤ maxRetries.toNat) {f : Bytes} (hcap : f.length ≤ Config.cap) (hf : verifyFrame f = true)
    (awaiting : Bool) : RecordInv maxRetries retries awaiting (Count.ofNat f.length) (buf.store 0 f) where
  bufWf := Memory.store_wf hw (by rwa [Nat.zero_add])
  retryBound := hretry
  awaitingRecorded _ := by
    rw [Count.ofNat_val hcap]
    exact ((verifyFrame_iff f).1 hf).1
  recordValid _ := by rwa [Count.ofNat_val hcap, Memory.slice_store (Memory.wf_rising hw)]

/-- Awaiting no response after all keeps the record's part; a valid frame does no more than that (R150). -/
theorem RecordInv.after_frame {maxRetries retries : BitVec 8} {awaiting : Bool} {n : Count} {buf : Memory}
    (h : RecordInv maxRetries retries awaiting n buf) (cmdHi : Byte) :
    RecordInv maxRetries retries (awaitingAfterFrame awaiting cmdHi) n buf where
  bufWf := h.bufWf
  retryBound := h.retryBound
  awaitingRecorded ha := by
    unfold awaitingAfterFrame at ha
    split at ha
    · cases ha
    · exact h.awaitingRecorded ha
  recordValid := h.recordValid

/-! ## The registry's part -/

theorem RegistryInv.empty (cap : Nat) : RegistryInv cap [] where
  idsDistinct := List.nodup_nil
  bound := Nat.zero_le _
  valueSize _ h := by cases h

/-- A fresh entry at the end of a table that is not full (R203). -/
theorem RegistryInv.define {cap : Nat} {reg : List RegEntry} (h : RegistryInv cap reg) {id : ParamId}
    (hnew : ∀ e ∈ reg, e.id ≠ id) (hroom : reg.length ≠ cap) (tag size : Byte) :
    RegistryInv cap (reg ++ [⟨id, tag, size, false, []⟩]) where
  idsDistinct := by
    rw [List.map_append, List.nodup_append]
    refine ⟨h.idsDistinct, List.nodup_singleton _, ?_⟩
    simpa using hnew
  bound := by
    have hbound := h.bound
    rw [List.length_append, List.length_singleton]
    omega
  valueSize e he := by
    rcases List.mem_append.1 he with he | he
    · exact h.valueSize e he
    · rw [List.mem_singleton.1 he]
      rfl

/-- The registry declares `n` as the size of the entry with that ID. Like membership, no assignment changes it (R43). -/
def DeclaresSize (reg : List RegEntry) (id : ParamId) (n : Nat) : Prop :=
  ∃ tag size, (id, tag, size) ∈ reg.map (fun e => (e.id, e.tag, e.size)) ∧ n = size.toNat

theorem declaresSize_of_entryOf {reg : List RegEntry} {id : ParamId} {e : RegEntry} {n : Nat}
    (he : entryOf reg id = some e) (hn : n = e.size.toNat) : DeclaresSize reg id n := by
  obtain ⟨hmem, rfl⟩ := entryOf_mem he
  exact ⟨e.tag, e.size, List.mem_map_of_mem hmem, hn⟩

@[simp] theorem declaresSize_assign (reg : List RegEntry) (id id' : ParamId) (v : Bytes) (n : Nat) :
    DeclaresSize (assign reg id' v) id n ↔ DeclaresSize reg id n := by
  rw [DeclaresSize, DeclaresSize, assign_members]

/-- With distinct IDs an entry of that ID has the declared size. -/
theorem DeclaresSize.size_eq {reg : List RegEntry} {id : ParamId} {n : Nat} (h : DeclaresSize reg id n)
    (hnodup : (reg.map RegEntry.id).Nodup) {e : RegEntry} (he : e ∈ reg) (hid : e.id = id) : n = e.size.toNat := by
  obtain ⟨tag, size, hmem, rfl⟩ := h
  obtain ⟨e', he', heq⟩ := List.mem_map.1 hmem
  cases heq
  rw [List.inj_on_of_nodup_map hnodup he he' hid]

theorem assign_ids (reg : List RegEntry) (id : ParamId) (v : Bytes) :
    (assign reg id v).map RegEntry.id = reg.map RegEntry.id := by
  have hids := congrArg (List.map Prod.fst) (assign_members reg id v)
  rwa [List.map_map, List.map_map] at hids

theorem assign_length (reg : List RegEntry) (id : ParamId) (v : Bytes) : (assign reg id v).length = reg.length := by
  simpa using congrArg List.length (assign_members reg id v)

/-- A value of the declared size is written (R215, R225). -/
theorem RegistryInv.assign {cap : Nat} {reg : List RegEntry} (h : RegistryInv cap reg) {id : ParamId} {v : Bytes}
    (hsize : DeclaresSize reg id v.length) : RegistryInv cap (assign reg id v) where
  idsDistinct := by
    rw [assign_ids]
    exact h.idsDistinct
  bound := by
    rw [assign_length]
    exact h.bound
  valueSize e he := by
    rw [assign_eq h.idsDistinct, List.mem_map] at he
    obtain ⟨e', he', rfl⟩ := he
    split
    · next hid =>
      show v.length = e'.size.toNat
      exact hsize.size_eq h.idsDistinct he' hid
    · exact h.valueSize e' he'

theorem RegistryInv.assignAll {cap : Nat} {reg : List RegEntry} (h : RegistryInv cap reg) {us : List Update}
    (hsize : ∀ u ∈ us, DeclaresSize reg u.id u.bytes.length) : RegistryInv cap (assignAll reg us) := by
  induction us generalizing reg with
  | nil => exact h
  | cons u us ih =>
    rw [List.forall_mem_cons] at hsize
    rw [assignAll_cons]
    exact ih (h.assign hsize.1) fun w hw => (declaresSize_assign ..).2 (hsize.2 w hw)

end Sys2Proof.Machine
end

section
/-! The invariant holds at cold start and every step keeps it. -/

namespace Sys2Proof.Machine

/-! ## Cold start (R50) -/

theorem coldStart_inv (c : Config.Params) : (State.coldStart c).Inv :=
  .of_parts (.idle _ rfl) (.empty _ _ rfl) (.empty _ rfl) (.empty _) rfl

/-- Settles O47: at cold start the receiver is idle, and latch, record and registry are empty. -/
theorem coldStartMeetsTheInvariant : Obligations.ColdStartMeetsTheInvariant :=
  ⟨coldStart_inv, coldStart_inv Config.Params.ref⟩

/-- Settles O46: each value is the one `State.coldStart` writes. -/
theorem coldStartValues : Obligations.ColdStartValues := by
  intro c
  and_intros <;> rfl

/-! ## The receiver -/

theorem State.Inv.diag {s : State} (h : s.Inv) (d : Diag) : (s.diag d).Inv :=
  .of_parts h.receiver h.latch h.record h.registry h.batchFlag

theorem State.Inv.result {s : State} (h : s.Inv) (r : Result) : (s.result r).Inv :=
  .of_parts h.receiver h.latch h.record h.registry h.batchFlag

theorem State.Inv.resync {s : State} (h : s.Inv) (cause : Cause) : (s.resync cause).Inv :=
  .of_parts h.receiver (.empty _ _ h.pendBufWf) (.empty _ h.lastBufWf) h.registry h.batchFlag

theorem gapCheck_inv {s : State} (h : s.Inv) (now : Time) : (gapCheck now s).Inv := by
  cases hgap : s.interByteTimeout now with
  | false =>
    rw [gapCheck_of_no_timeout hgap]
    exact .of_parts h.receiver h.latch h.record h.registry h.batchFlag
  | true =>
    rw [gapCheck_of_timeout hgap]
    exact .of_parts (.idle _ h.rxBufWf) h.latch h.record h.registry h.batchFlag

/-- The last byte of a frame: the frame is discarded or latched (R149, R150). -/
theorem completeFrame_inv {s : State} (h : s.Inv) {n : Count} {buf : Memory} (happ : Appended s.cfg.startMarker n buf)
    (hn : 7 ≤ (n : Nat)) (htotal : (n : Nat) = frameTotal (buf.read 5)) :
    (completeFrame { s with rxBuf := buf, rxCount := n }).Inv := by
  rcases completeFrame_cases { s with rxBuf := buf, rxCount := n } with ⟨-, e⟩ | ⟨hck, e⟩ <;> rw [e]
  · exact .of_parts (.idle _ happ.bufWf) h.latch h.record h.registry h.batchFlag
  · exact .of_parts (.idle _ happ.bufWf) (happ.latchInv h.pendBufWf hn htotal hck) (h.record.after_frame _) h.registry
      h.batchFlag

theorem afterAppend_inv {s : State} (h : s.Inv) (hst : s.rxState = .accum) {n : Count} {buf : Memory}
    (happ : Appended s.cfg.startMarker n buf) : (afterAppend { s with rxBuf := buf, rxCount := n }).Inv := by
  rcases afterAppend_cases { s with rxBuf := buf, rxCount := n } with
    ⟨-, -, e⟩ | ⟨hn, htotal, e⟩ | ⟨hguard, hmore, e⟩ <;> rw [e]
  · exact .of_parts (.idle _ happ.bufWf) h.latch h.record h.registry h.batchFlag
  · exact completeFrame_inv h happ hn htotal
  · refine .of_parts ?_ h.latch h.record h.registry h.batchFlag
    dsimp only
    rw [hst]
    exact happ.receiverInv hguard hmore

theorem accumulate_inv {s t : State} (h : s.Inv) (hst : s.rxState = .accum) {b : Byte}
    (hacc : accumulate b s = .next t) : t.Inv := by
  have hrx := h.receiver
  rw [hst] at hrx
  by_cases hn : (s.rxCount : Nat) < Config.cap
  · rw [accumulate_of_lt hn] at hacc
    cases hacc
    exact afterAppend_inv h hst (hrx.append hn b)
  · rw [accumulate_of_not_lt hn] at hacc
    cases hacc

theorem rxByte_inv {s t : State} (h : s.Inv) {b : Byte} {now : Time} (hb : rxByte b now s = .next t) : t.Inv := by
  have hg := gapCheck_inv h now
  rcases rxByte_cases b now s with ⟨-, e⟩ | ⟨-, ⟨-, hmarker, e⟩ | ⟨-, -, -, e⟩ | ⟨-, -, -, e⟩ | ⟨hst, e⟩⟩ <;>
    rw [e] at hb
  · cases hb
  · cases hb
    subst hmarker
    rw [← gapCheck_cfg now s]
    exact .of_parts (.opened _ hg.rxBufWf) hg.latch hg.record hg.registry hg.batchFlag
  · cases hb
    exact hg.resync .marker
  · cases hb
    exact hg.diag _
  · exact accumulate_inv hg hst hb

/-! ## The transmitter -/

theorem txPoll_inv {s : State} (h : s.Inv) (now : Time) : (txPoll now s).Inv := by
  rcases txPoll_cases now s with ⟨-, e⟩ | ⟨-, hretry, e⟩ | ⟨-, -, e⟩ <;> rw [e]
  · exact h
  · have hbound : (retransmit now s).retryCount.toNat ≤ s.cfg.maxRetries.toNat := by
      rw [retransmit_retryCount_toNat hretry]
      exact hretry
    exact .of_parts h.receiver h.latch ⟨h.lastBufWf, hbound, h.awaitingRecorded, h.recordValid⟩ h.registry h.batchFlag
  · exact h.resync _

theorem Overflowed.inv {n : Nat} {s t : State} (h : Overflowed n s t) (hs : s.Inv) : t.Inv := by
  obtain ⟨_, rfl⟩ := h
  exact .of_parts hs.receiver hs.latch hs.record hs.registry hs.batchFlag

theorem Recorded.inv {s t : State} (h : Recorded s t) (hs : s.Inv) : t.Inv := by
  obtain ⟨_, f, now, hcap, hf, rfl | rfl⟩ := h
  · exact .of_parts hs.receiver hs.latch (.recorded hs.lastBufWf hs.retryBound hcap hf _) hs.registry hs.batchFlag
  · exact .of_parts hs.receiver hs.latch (.recorded hs.lastBufWf (Nat.zero_le _) hcap hf _) hs.registry hs.batchFlag

/-! ## The registry -/

theorem Answered.inv {s t : State} (h : Answered s t) (hs : s.Inv) : t.Inv := by
  obtain ⟨r, rfl | ⟨d, rfl⟩⟩ := h
  · exact hs.result r
  · exact (hs.diag d).result r

theorem State.Inv.setReg {s : State} (h : s.Inv) {reg : List RegEntry} (hreg : RegistryInv s.cfg.regCap reg) :
    State.Inv { s with reg := reg } :=
  .of_parts h.receiver h.latch h.record hreg h.batchFlag

theorem State.Inv.setBatch {s : State} (h : s.Inv) (us : List Update) :
    State.Inv { s with batch := us, batchValid := batchValidOf us } :=
  .of_parts h.receiver h.latch h.record h.registry rfl

theorem regDefine_inv {s : State} (h : s.Inv) (id : ParamId) (tag size : Byte) : (regDefine id tag size s).Inv := by
  rcases regDefine_cases id tag size s with ha | ⟨hnew, hroom, e⟩
  · exact ha.inv h
  · rw [e]
    exact (h.setReg (h.registry.define hnew hroom tag size)).result _

theorem regApply_inv {s : State} (h : s.Inv) (us : List Update) : (regApply us s).Inv := by
  rcases regApply_cases us s with ⟨d, -, e⟩ | ⟨hgood, e⟩ <;> rw [e]
  · exact (h.diag d).result _
  · refine (h.setReg (h.registry.assignAll fun u hu => ?_)).result _
    obtain ⟨e, he, hlen⟩ := updateProblem_none_iff.1 (batchProblem_none_iff.1 hgood u hu)
    exact declaresSize_of_entryOf he hlen

theorem regFlush_inv {s : State} (h : s.Inv) : (regFlush s).Inv := by
  rcases regFlush_cases s with e | e <;> rw [e]
  · exact h.result _
  · exact (regApply_inv h s.batch).setBatch []

theorem applyTriple_inv {s : State} (h : s.Inv) (id : ParamId) (v : Bytes) : (applyTriple id v s).1.Inv := by
  rcases applyTriple_cases id v s with ⟨-, e⟩ | ⟨entry, hentry, ⟨-, e⟩ | ⟨hlen, e⟩⟩ <;> rw [e]
  · exact h.diag _
  · exact h.diag _
  · exact h.setReg (h.registry.assign (declaresSize_of_entryOf hentry hlen))

theorem parseBlock_inv {s : State} (h : s.Inv) (rounds p : Nat) (rest : Bytes) (applied : Nat) :
    (parseBlock rounds p rest applied s).1.Inv := by
  induction rounds generalizing p rest applied s with
  | zero => exact h
  | succ rounds ih =>
    cases rest with
    | nil => exact h
    | cons b bs =>
      rw [parseBlock]
      split
      · exact h.diag _
      · exact ih (applyTriple_inv h _ _) _ _ _

theorem regParse_inv {s : State} (h : s.Inv) (block : Bytes) : (regParse block s).Inv := by
  rw [regParse_eq]
  exact (parseBlock_inv h ..).result _

/-! ## Every client operation, every instruction, every step -/

theorem clientOp_inv {s : State} (h : s.Inv) (o : ClientOp) : (clientOp o s).Inv := by
  cases o with
  | fields => exact (fields_answered s).inv h
  | send command payload posted now =>
    exact (send_overflowed_or_recorded command payload posted now s).elim (fun ho => ho.2.inv h) fun hr => hr.inv h
  | sendReply counter command payload now =>
    exact (sendReply_overflowed_or_recorded counter command payload now s).elim (fun ho => ho.2.inv h) fun hr => hr.inv h
  | regClear => exact h.setReg (.empty _)
  | regDefine id tag size => exact regDefine_inv h id tag size
  | regGet id => exact (regGet_answered id s).inv h
  | regQueue us => exact h.setBatch us
  | regApply us => exact regApply_inv h us
  | regFlush => exact regFlush_inv h
  | regParse block => exact regParse_inv h block
  | regInfo id => exact (regInfo_answered id s).inv h
  | regAt k => exact (regAt_answered k s).inv h
  | csSet w =>
    obtain ⟨_, _, _, e⟩ := csSet_eq w s
    rw [clientOp, e]
    exact .of_parts h.receiver h.latch h.record h.registry h.batchFlag

theorem keptByActions_inv : KeptByActions State.Inv fun _ => True where
  queue _ _ h := .of_parts h.receiver h.latch h.record h.registry h.batchFlag
  result _ r h := h.result r
  byte _ _ _ _ h hb := rxByte_inv h hb
  release _ h := .of_parts h.receiver (.empty _ _ h.pendBufWf) h.record h.registry h.batchFlag
  poll _ now h := txPoll_inv h now
  triple _ id v h := applyTriple_inv h id v
  client _ o _ h := clientOp_inv h o

theorem exec_inv {i : Instr} {s t : State} (hs : s.Inv) (h : exec i s = .next t) : t.Inv :=
  keptByActions_inv.exec (fun _ _ => trivial) hs h

theorem execMalformed_inv {p : Packet} {e : DecodeError} {s t : State} (hs : s.Inv)
    (h : execMalformed p e s = .next t) : t.Inv := by
  rcases execMalformed_eq_next h with ⟨message, now, -, hrecv⟩ | ⟨-, rfl⟩
  · exact keptByActions_inv.receiveMessage hs hrecv
  · exact regParse_inv hs p.bytes

theorem State.Inv.setInput {s : State} (h : s.Inv) (later : List Input) : State.Inv { s with input := later } :=
  .of_parts h.receiver h.latch h.record h.registry h.batchFlag

/-- Everything a step can do (R14, R69, R240): nothing without input, take the bytes of the line, run the fetched
instruction, or meet a packet that is none. -/
theorem step_eq_next {s t : State} (h : step s = .next t) :
    (s.input = [] ∧ t = s) ∨
    (∃ bytes later, s.input = .line bytes :: later ∧ t = { s with input := later, rxQueue := s.rxQueue ++ bytes }) ∨
    (∃ p later i, s.input = .packet p :: later ∧ s.fetch p = .ok i ∧ exec i { s with input := later } = .next t) ∨
    ∃ p later e, s.input = .packet p :: later ∧ s.fetch p = .error e ∧
      execMalformed p e { s with input := later } = .next t := by
  unfold step at h
  split at h
  · next hin =>
    cases h
    exact .inl ⟨hin, rfl⟩
  · next bytes later hin =>
    cases h
    exact .inr (.inl ⟨bytes, later, hin, rfl⟩)
  · next p later hin =>
    split at h
    · next i hi => exact .inr (.inr (.inl ⟨p, later, i, hin, hi, h⟩))
    · next e he => exact .inr (.inr (.inr ⟨p, later, e, hin, he, h⟩))

/-- Settles O48: the input port and the waiting bytes are no part of the invariant, and every action of an instruction
keeps each part. -/
theorem stepKeepsTheInvariant : Obligations.StepKeepsTheInvariant := by
  intro s t hs h
  rcases step_eq_next h with
    ⟨-, rfl⟩ | ⟨bytes, later, -, rfl⟩ | ⟨p, later, i, -, -, hi⟩ | ⟨p, later, e, -, -, hp⟩
  · exact hs
  · exact keptByActions_inv.queue _ _ (hs.setInput later)
  · exact exec_inv (hs.setInput later) hi
  · exact execMalformed_inv (hs.setInput later) hp

end Sys2Proof.Machine
end

section
/-! Retransmission (R82): operations that record no frame change neither the recorded frame of an outstanding request
nor what is written, but for the polls that write that frame once more. -/

namespace Sys2Proof

@[simp] theorem ClientOp.recordsFrame_toInstr (o : ClientOp) : o.toInstr.recordsFrame = o.recordsFrame := by
  cases o <;> rfl

/-- The frames an instruction records are those of the client operations it performs. -/
theorem Instr.recordsFrame_of_mem {i : Instr} (hi : i.recordsFrame = false) {o : ClientOp} (ho : o ∈ i.clientOps) :
    o.recordsFrame = false := by
  rcases mem_clientOps ho with rfl | ⟨_, _, stepC, stepD, rfl, hmem⟩
  · rwa [ClientOp.recordsFrame_toInstr] at hi
  · obtain ⟨hC, hD⟩ := Bool.or_eq_false_iff.1 hi
    rw [List.any_eq_false] at hC hD
    exact Bool.eq_false_iff.2 (hmem.elim (hC o) (hD o))

end Sys2Proof

namespace Sys2Proof.Machine

/-- What every action keeps, every sequence of instructions keeps. -/
theorem KeptByActions.execAll {P : State → Prop} {ops : ClientOp → Prop} (hP : KeptByActions P ops) {is : List Instr}
    (hops : ∀ i ∈ is, ∀ o ∈ i.clientOps, ops o) {s t : State} (hs : P s) (h : execAll is s = .next t) : P t := by
  induction is generalizing s with
  | nil =>
    cases h
    exact hs
  | cons i is ih =>
    rw [List.forall_mem_cons] at hops
    rw [execAll_cons, andThen_eq_next] at h
    obtain ⟨u, hu, h⟩ := h
    exact ih hops.2 (hP.exec hops.1 hs hu) h

/-! ## Operations that write nothing and leave the record alone -/

/-- From `s` to `t` nothing was written, and a request outstanding in `t` is the one that was outstanding in `s`. It may
have stopped being outstanding: a response answers it (R150), a resynchronization drops it with its record (R190). -/
structure KeepsRequest (s t : State) : Prop where
  txOut : t.txOut = s.txOut
  outstanding : t.awaiting = true → s.awaiting = true ∧ t.lastFrame = s.lastFrame

theorem KeepsRequest.of_eq {s t : State} (htx : t.txOut = s.txOut) (ha : t.awaiting = s.awaiting)
    (hf : t.lastFrame = s.lastFrame) : KeepsRequest s t := ⟨htx, fun h => ⟨ha.symm.trans h, hf⟩⟩

theorem KeepsRequest.of_not_awaiting {s t : State} (htx : t.txOut = s.txOut) (ha : t.awaiting = false) :
    KeepsRequest s t := ⟨htx, fun h => absurd h (Bool.eq_false_iff.1 ha)⟩

theorem KeepsRequest.trans {s t u : State} (h : KeepsRequest s t) (h' : KeepsRequest t u) : KeepsRequest s u where
  txOut := h'.txOut.trans h.txOut
  outstanding hu := by
    obtain ⟨ht, hframe'⟩ := h'.outstanding hu
    obtain ⟨hs, hframe⟩ := h.outstanding ht
    exact ⟨hs, hframe'.trans hframe⟩

theorem resync_keepsRequest (cause : Cause) (s : State) : KeepsRequest s (s.resync cause) := .of_not_awaiting rfl rfl

theorem gapCheck_keepsRequest (now : Time) (s : State) : KeepsRequest s (gapCheck now s) := by
  rw [gapCheck_eq]
  exact .of_eq rfl rfl rfl

theorem awaiting_of_awaitingAfterFrame {awaiting : Bool} {cmdHi : Byte} (h : awaitingAfterFrame awaiting cmdHi = true) :
    awaiting = true := by
  unfold awaitingAfterFrame at h
  split at h
  · cases h
  · exact h

theorem completeFrame_keepsRequest (s : State) : KeepsRequest s (completeFrame s) := by
  rcases completeFrame_cases s with ⟨-, e⟩ | ⟨-, e⟩ <;> rw [e]
  · exact .of_eq rfl rfl rfl
  · exact ⟨rfl, fun h => ⟨awaiting_of_awaitingAfterFrame h, rfl⟩⟩

theorem afterAppend_keepsRequest (s : State) : KeepsRequest s (afterAppend s) := by
  rcases afterAppend_cases s with ⟨-, -, e⟩ | ⟨-, -, e⟩ | ⟨-, -, e⟩ <;> rw [e]
  · exact .of_eq rfl rfl rfl
  · exact completeFrame_keepsRequest s
  · exact .of_eq rfl rfl rfl

theorem accumulate_keepsRequest {b : Byte} {s t : State} (h : accumulate b s = .next t) : KeepsRequest s t := by
  by_cases hroom : (s.rxCount : Nat) < Config.cap
  · rw [accumulate_of_lt hroom] at h
    cases h
    refine .trans ?_ (afterAppend_keepsRequest _)
    exact .of_eq rfl rfl rfl
  · rw [accumulate_of_not_lt hroom] at h
    cases h

theorem rxByte_keepsRequest {b : Byte} {now : Time} {s t : State} (h : rxByte b now s = .next t) : KeepsRequest s t := by
  refine (gapCheck_keepsRequest now s).trans ?_
  rcases rxByte_cases b now s with ⟨-, e⟩ | ⟨-, ⟨-, -, e⟩ | ⟨-, -, -, e⟩ | ⟨-, -, -, e⟩ | ⟨-, e⟩⟩ <;> rw [e] at h
  · cases h
  · cases h
    exact .of_eq rfl rfl rfl
  · cases h
    exact resync_keepsRequest ..
  · cases h
    exact .of_eq rfl rfl rfl
  · exact accumulate_keepsRequest h

theorem RegistryFrame.keepsRequest {s t : State} (h : RegistryFrame s t) : KeepsRequest s t := by
  rw [h.eq]
  exact .of_eq rfl rfl rfl

theorem Overflowed.keepsRequest {n : Nat} {s t : State} (h : Overflowed n s t) : KeepsRequest s t := by
  obtain ⟨_, rfl⟩ := h
  exact .of_eq rfl rfl rfl

theorem send_overflowed {payload : Bytes} (hlong : Config.maxPayload < payload.length) (command : BitVec 16)
    (posted : Bool) (now : Time) (s : State) : Overflowed payload.length s (send command payload posted now s) := by
  rcases send_cases command payload posted now s with ⟨-, h⟩ | ⟨f, hf, -⟩
  · exact ⟨_, h⟩
  · exact absurd (encodeFrame_length hf).2 (Nat.not_le_of_lt hlong)

theorem sendReply_overflowed {payload : Bytes} (hlong : Config.maxPayload < payload.length) (counter : Byte)
    (command : BitVec 16) (now : Time) (s : State) :
    Overflowed payload.length s (sendReply counter command payload now s) := by
  rcases sendReply_cases counter command payload now s with ⟨-, h⟩ | ⟨f, hf, -⟩
  · exact ⟨s.txCounter, h⟩
  · exact absurd (encodeFrame_length hf).2 (Nat.not_le_of_lt hlong)

/-- A client operation that records no frame overflows, writes the connection state or stays in the registry. -/
theorem clientOp_keepsRequest {o : ClientOp} (ho : o.recordsFrame = false) (s : State) :
    KeepsRequest s (clientOp o s) := by
  cases o with
  | send command payload posted now =>
    exact (send_overflowed (Nat.lt_of_not_le (of_decide_eq_false ho)) ..).keepsRequest
  | sendReply counter command payload now =>
    exact (sendReply_overflowed (Nat.lt_of_not_le (of_decide_eq_false ho)) ..).keepsRequest
  | csSet w =>
    obtain ⟨_, _, _, e⟩ := csSet_eq w s
    rw [clientOp, e]
    exact .of_eq rfl rfl rfl
  | regClear => exact .of_eq rfl rfl rfl
  | fields => exact (fields_answered s).registryFrame.keepsRequest
  | regGet id => exact (regGet_answered id s).registryFrame.keepsRequest
  | regInfo id => exact (regInfo_answered id s).registryFrame.keepsRequest
  | regAt k => exact (regAt_answered k s).registryFrame.keepsRequest
  | regDefine id tag size => exact (regDefine_registryFrame id tag size s).keepsRequest
  | regQueue us => exact (regQueue_registryFrame us s).keepsRequest
  | regApply us => exact (regApply_registryFrame us s).keepsRequest
  | regFlush => exact (regFlush_registryFrame s).keepsRequest
  | regParse block => exact (regParse_registryFrame block s).keepsRequest

/-! ## The invariant of a run that records no other frame -/

/-- What was written since `before` is the frame `f`, once or more often, and a request still outstanding is the one
recorded as `f`. -/
structure OnlyRepeated (before : List Bytes) (f : Bytes) (u : State) : Prop where
  written : ∃ n : Nat, u.txOut = before ++ List.replicate (n + 1) f
  recorded : u.awaiting = true → u.lastFrame = f

section
variable {before : List Bytes} {f : Bytes}

theorem OnlyRepeated.keep {u v : State} (h : OnlyRepeated before f u) (hkeep : KeepsRequest u v) :
    OnlyRepeated before f v where
  written := by
    rw [hkeep.txOut]
    exact h.written
  recorded hv := by
    obtain ⟨hu, hframe⟩ := hkeep.outstanding hv
    exact hframe.trans (h.recorded hu)

/-- Retransmitting an outstanding request writes its frame once more and records nothing new. -/
theorem OnlyRepeated.retransmit {u : State} (h : OnlyRepeated before f u) (ha : u.awaiting = true) (now : Time) :
    OnlyRepeated before f (retransmit now u) where
  written := by
    obtain ⟨n, hn⟩ := h.written
    refine ⟨n + 1, ?_⟩
    rw [retransmit_txOut, h.recorded ha, hn, List.append_assoc, ← List.replicate_succ']
  recorded := h.recorded

theorem OnlyRepeated.txPoll {u : State} (h : OnlyRepeated before f u) (now : Time) :
    OnlyRepeated before f (txPoll now u) := by
  rcases txPoll_cases now u with ⟨-, e⟩ | ⟨htimeout, -, e⟩ | ⟨-, -, e⟩ <;> rw [e]
  · exact h
  · exact h.retransmit ((responseTimeout_iff now u).1 htimeout).1 now
  · exact h.keep (resync_keepsRequest ..)

theorem keptByActions_onlyRepeated (before : List Bytes) (f : Bytes) :
    KeptByActions (OnlyRepeated before f) fun o => o.recordsFrame = false where
  queue _ _ h := h.keep (.of_eq rfl rfl rfl)
  result _ _ h := h.keep (.of_eq rfl rfl rfl)
  byte _ _ _ _ h hb := h.keep (rxByte_keepsRequest hb)
  release _ h := h.keep (.of_eq rfl rfl rfl)
  poll _ now h := h.txPoll now
  triple u id v h := h.keep (applyTriple_registryFrame id v u).keepsRequest
  client u _ ho h := h.keep (clientOp_keepsRequest ho u)

end

/-! ## The request and its next timeout -/

/-- The counter a frame was encoded with stands at its offset 1 (R101). -/
theorem encodeFrame_counter {c : Config.Params} {counter : Byte} {command : BitVec 16} {payload f : Bytes}
    (h : encodeFrame c counter command payload = some f) : f.getD 1 0 = counter := by
  rw [encodeFrame_of_le c counter command (encodeFrame_length h).2, Option.some.injEq] at h
  rw [← h]
  rfl

/-- A SEND of a payload that fits transmits its frame and expects a response (R171). -/
theorem send_request (command : BitVec 16) {payload : Bytes} (hfit : payload.length ≤ Config.maxPayload) (now : Time)
    (s : State) : ∃ f, encodeFrame s.cfg (s.txCounter + 1) command payload = some f ∧
      send command payload false now s = (State.transmit { s with txCounter := s.txCounter + 1 } f now).expectResponse := by
  rcases send_cases command payload false now s with ⟨hlong, -⟩ | h
  · exact absurd hfit (Nat.not_le_of_lt hlong)
  · exact h

/-- A request that was just sent and recorded has been written once. -/
theorem onlyRepeated_of_transmit {f : Bytes} (hf : f.length ≤ Config.cap) {s : State} (hw : s.lastBuf.wf = true)
    (now : Time) : OnlyRepeated s.txOut f (s.transmit f now).expectResponse where
  written := ⟨0, rfl⟩
  recorded _ := lastFrame_transmit hf hw now

/-- A poll that finds the response timeout exceeded and a retry left retransmits (R180). -/
theorem exec_txPoll_of_retry_left {now : Time} {s : State} (htimeout : s.responseTimeout now = true)
    (hretry : s.retryCount.toNat < s.cfg.maxRetries.toNat) : exec (.txPoll now) s = .next (retransmit now s) := by
  have e : txPoll now s = retransmit now s := by simp [txPoll, htimeout, hretry]
  exact congrArg Host.Outcome.next e

/-- Settles O28: operations that record no frame keep the invariant `OnlyRepeated`, which a SEND establishes; where the
request is still outstanding the recorded frame is the request's, and that is what a retransmission writes. -/
theorem retransmissionRepeatsTheRequest : Obligations.RetransmissionRepeatsTheRequest := by
  intro command payload sent s hfit hw
  obtain ⟨f, hf, hsend⟩ := send_request command hfit sent s
  have hrequest := onlyRepeated_of_transmit (s := { s with txCounter := s.txCounter + 1 })
    (encodeFrame_length_le_cap hf) hw sent
  refine ⟨f, _, congrArg Host.Outcome.next hsend, rfl, encodeFrame_counter hf, rfl, rfl, rfl, ?_⟩
  intro between u hbetween hrun
  have hu := (keptByActions_onlyRepeated s.txOut f).execAll
    (fun i hi _ ho => Instr.recordsFrame_of_mem (hbetween i hi) ho) hrequest hrun
  refine ⟨hu.written, fun polled ha hretry hlate => ?_⟩
  rw [exec_txPoll_of_retry_left ((responseTimeout_iff polled u).2 ⟨ha, hlate⟩) hretry, ← hu.recorded ha]
  rfl

end Sys2Proof.Machine
end

section
/-! Decoding (R90 to R97, R110, R111): every reader undoes the encoder of its instruction, and an index that names no
operation is refused. -/

namespace Sys2Proof

/-! ## Client operations (R110, R241) -/

/-- The indices of R110 that `readClientOperands` knows. -/
def clientIndices : List Nat := [0x04, 0x20, 0x21, 0x30, 0x31, 0x32, 0x33, 0x34, 0x35, 0x36, 0x37, 0x38, 0x41]

/-- The indices of R110 that `readOperands` knows beside them. -/
def otherIndices : List Nat := [0x01, 0x02, 0x03, 0x10, 0x11, 0x12, 0x22, 0x23, 0x40]

theorem readClientOp_cons (op : Byte) (bs : Bytes) : readClientOp (op :: bs) = readClientOperands op bs := rfl

theorem readClientOperands_of_not_mem {op : Byte} (h : op.toNat ∉ clientIndices) (bs : Bytes) :
    readClientOperands op bs = .error (.noSuchOperation op) := by
  unfold readClientOperands
  split
  case h_14 => rfl
  all_goals next hop => exact absurd (by rw [hop]; decide) h

/-- What starts with an operation of the client reads as the instruction of the same name. -/
theorem readOp_of_readClientOp {bs rest : Bytes} {o : ClientOp} (h : readClientOp bs = .ok (o, rest)) :
    readOp bs = .ok (o.toInstr, rest) := by
  cases bs with
  | nil => cases h
  | cons op bs =>
    rw [readClientOp_cons] at h
    have hop : op.toNat ∈ clientIndices := by
      by_contra hop
      rw [readClientOperands_of_not_mem hop] at h
      cases h
    have hdisjoint : ∀ n ∈ otherIndices, n ∉ clientIndices := by decide
    have hread : readOp (op :: bs) = (readClientOperands op bs).map fun x => (x.1.toInstr, x.2) :=
      readOperands_client bs fun n hn heq => hdisjoint n hn (heq ▸ hop)
    rw [hread, h]
    rfl

theorem readClientOp_encClientOp {o : ClientOp} (h : o.wf = true) (rest : Bytes) :
    readClientOp (encClientOp o ++ rest) = .ok (o, rest) := by
  cases o with
  | fields | regClear | regFlush => rfl
  | send command payload posted now =>
    simp [encClientOp, readClientOp_cons, readClientOperands, bind, Except.bind, readBits_two, readBytes_encBytes h,
      readBool_encBool, readTime_encTime]
  | sendReply counter command payload now =>
    simp [encClientOp, readClientOp_cons, readClientOperands, bind, Except.bind, readByte_cons, readBits_two,
      readBytes_encBytes h, readTime_encTime]
  | regDefine _ _ _ | regGet _ | regInfo _ =>
    simp [encClientOp, readClientOp_cons, readClientOperands, bind, Except.bind, readId_encId, readByte_cons]
  | regQueue _ | regApply _ =>
    simp [encClientOp, readClientOp_cons, readClientOperands, bind, Except.bind, readUpdates_encUpdates h]
  | regParse _ =>
    simp [encClientOp, readClientOp_cons, readClientOperands, bind, Except.bind, readBytes_encBytes h]
  | regAt k =>
    simp [encClientOp, readClientOp_cons, readClientOperands, bind, Except.bind, readNat_leBytes_four (of_decide_eq_true h)]
  | csSet w =>
    simp [encClientOp, readClientOp_cons, readClientOperands, bind, Except.bind, readCsWrite_encCsWrite]

theorem readOp_encClientOp {o : ClientOp} (h : o.wf = true) (rest : Bytes) :
    readOp (encClientOp o ++ rest) = .ok (o.toInstr, rest) :=
  readOp_of_readClientOp (readClientOp_encClientOp h rest)

/-! ## The other operations (R110) -/

theorem readOp_cons (op : Byte) (bs : Bytes) : readOp (op :: bs) = readOperands op bs := rfl

theorem readList_encTime {ts : List Time} (h : seqFits ts = true) (rest : Bytes) :
    readList readTime (encList encTime ts ++ rest) = .ok (ts, rest) :=
  readList_encList ts h (fun t _ => readTime_encTime t) rest

theorem readList_encClientOp {os : List ClientOp} (h : (seqFits os && os.all ClientOp.wf) = true) (rest : Bytes) :
    readList readClientOp (encList encClientOp os ++ rest) = .ok (os, rest) := by
  obtain ⟨hlength, hops⟩ := Bool.and_eq_true_iff.1 h
  exact readList_encList os hlength (fun o ho => readClientOp_encClientOp (List.all_eq_true.1 hops o ho)) rest

/-- A length up to 255 stands in its byte unchanged (R44, R90, R97). -/
theorem toNat_lengthByte {n : Nat} (h : n ≤ 255) : (BitVec.ofNat 8 n).toNat = n := by
  rw [BitVec.toNat_ofNat, Nat.mod_eq_of_lt (Nat.lt_succ_of_le h)]

/-! ## Received bytes and wire messages (R90, R96, R97, R141) -/

/-- The row of a received byte is decided by the receiver's state after the gap check and the byte (R142 to R146). -/
theorem readRxByte_encTime (c : Config.Params) (rx : RxContext) (b : Byte) (now : Time) (rest : Bytes) :
    readRxByte c rx (b :: encTime now ++ rest) =
      .ok ((classify c (stateAfterGap c rx now) b).toInstr b now, rest) := by
  simp only [readRxByte, List.cons_append, readByte_cons, readTime_encTime, bind, Except.bind]

/-- A well-formed received byte falls, where it may stand, under its own row (R143 to R146). -/
theorem classify_of_standsIn {c : Config.Params} {rx : RxContext} {k : RxClass} {b : Byte} {now : Time}
    (hwf : (k.toInstr b now).wf c = true) (hrx : (k.toInstr b now).standsIn c rx = true) :
    classify c (stateAfterGap c rx now) b = k := by
  cases k with
  | data =>
    have hst : stateAfterGap c rx now = .accum := eq_of_beq hrx
    rw [hst]
    rfl
  | start =>
    have hst : stateAfterGap c rx now = .idle := eq_of_beq hrx
    rw [hst]
    exact if_pos (eq_of_beq hwf)
  | resync =>
    have hst : stateAfterGap c rx now = .idle := eq_of_beq hrx
    obtain ⟨hresync, hstart⟩ := Bool.and_eq_true_iff.1 hwf
    rw [hst]
    exact (if_neg (bne_iff_ne.1 hstart)).trans (if_pos (eq_of_beq hresync))
  | noise =>
    have hst : stateAfterGap c rx now = .idle := eq_of_beq hrx
    obtain ⟨hstart, hresync⟩ := Bool.and_eq_true_iff.1 hwf
    rw [hst]
    exact (if_neg (bne_iff_ne.1 hstart)).trans (if_neg (bne_iff_ne.1 hresync))

theorem readRxByte_of_standsIn {c : Config.Params} {rx : RxContext} {k : RxClass} {b : Byte} {now : Time}
    (hwf : (k.toInstr b now).wf c = true) (hrx : (k.toInstr b now).standsIn c rx = true) (rest : Bytes) :
    readRxByte c rx (b :: encTime now ++ rest) = .ok (k.toInstr b now, rest) := by
  rw [readRxByte_encTime, classify_of_standsIn hwf hrx]

/-- The response flag tells the two frame rows apart (R92). -/
theorem readFrame_frameBytes (c : Config.Params) (seq : Byte) (response : Bool) (command : BitVec 15) (dummy : Byte)
    {payload : Bytes} (h : payload.length ≤ Config.maxPayload) (ck : Byte) (now : Time) (rest : Bytes) :
    readFrame c (frameBytes c.startMarker seq (commandWord response command) dummy payload ck ++ encTime now ++ rest) =
      .ok (if response then .frameRsp seq command dummy payload ck now else .frameReq seq command dummy payload ck now,
        rest) := by
  simp only [readFrame, frameBytes, List.cons_append, List.nil_append, List.append_assoc, readByte_cons, bind, Except.bind,
    toNat_lengthByte (h.trans (by decide)), Nat.not_lt.2 h, readMany_readByte, readTime_encTime, word16_commandWord,
    highByte_commandWord_msb, ne_eq, not_true_eq_false, if_false]
  cases response <;> rfl

theorem readResync_encTime (c : Config.Params) (now : Time) (rest : Bytes) :
    readResync c (c.resyncMarker :: encTime now ++ rest) = .ok (.resyncByte now, rest) := by
  simp only [readResync, List.cons_append, readByte_cons, readTime_encTime, bind, Except.bind, ne_eq, not_true_eq_false,
    if_false]

theorem readTriple_tripleBytes (id : ParamId) {tbytes : Bytes} (h : tbytes.length ≤ 255) (rest : Bytes) :
    readTriple (tripleBytes id tbytes ++ rest) = .ok (.triple id tbytes, rest) := by
  simp only [readTriple, tripleBytes, List.cons_append, List.nil_append, readByte_cons, bind, Except.bind,
    toNat_lengthByte h, readMany_readByte, word16_low_high]

/-! ## Whole packets -/

/-- The packet of an instruction followed by any bytes reads as the instruction and those bytes. -/
theorem readPacket_encode {c : Config.Params} {rx : RxContext} {i : Instr} (hwf : i.wf c = true)
    (hrx : i.standsIn c rx = true) (rest : Bytes) :
    readPacket c rx ⟨(encode c i).fmt, (encode c i).bytes ++ rest⟩ = .ok (i, rest) := by
  cases i with
  | rxRelease => rfl
  | cksum _ | verify _ =>
    simp [readPacket, encode, readOp_cons, readOperands, bind, Except.bind, readBytes_encBytes hwf]
  | encode counter command payload =>
    simp [readPacket, Sys2Proof.encode, readOp_cons, readOperands, bind, Except.bind, readByte_cons, readBits_two,
      readBytes_encBytes hwf]
  | rxByte b now | txPoll now =>
    simp [readPacket, encode, readOp_cons, readOperands, bind, Except.bind, readByte_cons, readTime_encTime]
  | rxDrain times =>
    simp [readPacket, encode, readOp_cons, readOperands, bind, Except.bind, readList_encTime hwf]
  | resync cause =>
    simp [readPacket, encode, readOp_cons, readOperands, bind, Except.bind, readCause_encCause]
  | tick drainTimes pollTime stepC stepD =>
    obtain ⟨hcd, hd⟩ := Bool.and_eq_true_iff.1 hwf
    obtain ⟨ht, hc⟩ := Bool.and_eq_true_iff.1 hcd
    simp [readPacket, encode, readOp_cons, readOperands, bind, Except.bind, readList_encTime ht, readTime_encTime,
      readList_encClientOp hc, readList_encClientOp hd]
  | rxStart b now => exact readRxByte_of_standsIn (k := .start) hwf hrx rest
  | rxResync b now => exact readRxByte_of_standsIn (k := .resync) hwf hrx rest
  | rxNoise b now => exact readRxByte_of_standsIn (k := .noise) hwf hrx rest
  | rxData b now => exact readRxByte_of_standsIn (k := .data) hwf hrx rest
  | frameReq seq command dummy payload ck now =>
    exact readFrame_frameBytes c seq false command dummy (of_decide_eq_true hwf) ck now rest
  | frameRsp seq command dummy payload ck now =>
    exact readFrame_frameBytes c seq true command dummy (of_decide_eq_true hwf) ck now rest
  | resyncByte now => exact readResync_encTime c now rest
  | triple id tbytes => exact readTriple_tripleBytes id (of_decide_eq_true hwf) rest
  | fields => exact readOp_encClientOp (o := .fields) hwf rest
  | send _ _ _ _ => exact readOp_encClientOp (o := .send _ _ _ _) hwf rest
  | sendReply _ _ _ _ => exact readOp_encClientOp (o := .sendReply _ _ _ _) hwf rest
  | regClear => exact readOp_encClientOp (o := .regClear) hwf rest
  | regDefine _ _ _ => exact readOp_encClientOp (o := .regDefine _ _ _) hwf rest
  | regGet _ => exact readOp_encClientOp (o := .regGet _) hwf rest
  | regQueue _ => exact readOp_encClientOp (o := .regQueue _) hwf rest
  | regApply _ => exact readOp_encClientOp (o := .regApply _) hwf rest
  | regFlush => exact readOp_encClientOp (o := .regFlush) hwf rest
  | regParse _ => exact readOp_encClientOp (o := .regParse _) hwf rest
  | regInfo _ => exact readOp_encClientOp (o := .regInfo _) hwf rest
  | regAt _ => exact readOp_encClientOp (o := .regAt _) hwf rest
  | csSet _ => exact readOp_encClientOp (o := .csSet _) hwf rest

/-- Zero padding after an instruction is no part of it (log 6). -/
theorem decode_of_readPacket {c : Config.Params} {rx : RxContext} {p : Packet} {i : Instr} {padding : Nat}
    (h : readPacket c rx p = .ok (i, List.replicate padding 0)) : decode c rx p = .ok i := by
  simp [decode, h, bind, Except.bind]

/-- Settles O51: with whatever follows it the packet of an instruction reads as that instruction, and what is left here is
zero padding. -/
theorem decodeOfEncodeIsTheInstruction : Obligations.DecodeOfEncodeIsTheInstruction := by
  intro c rx i padding hwf hrx
  exact decode_of_readPacket (readPacket_encode hwf hrx (List.replicate padding 0))

/-- Settles O52: each word is decoded as the model computes it. -/
theorem wordsOfTheTableDecode : Obligations.WordsOfTheTableDecode := by
  unfold Obligations.WordsOfTheTableDecode
  and_intros <;> decide +kernel

/-! ## Indices that name no operation (R111) -/

theorem readOperands_of_not_mem {op : Byte} (hclient : op.toNat ∉ clientIndices) (hother : op.toNat ∉ otherIndices)
    (bs : Bytes) : readOperands op bs = .error (.noSuchOperation op) := by
  have hread := readOperands_client bs fun n hn heq => hother (heq ▸ hn)
  rw [hread, readClientOperands_of_not_mem hclient]
  rfl

theorem decode_of_readOperands_error {op : Byte} {bs : Bytes} {e : DecodeError} (h : readOperands op bs = .error e)
    (c : Config.Params) (rx : RxContext) : decode c rx ⟨.op, op :: bs⟩ = .error e := by
  simp [decode, readPacket, readOp_cons, h, bind, Except.bind]

namespace Machine

/-- The packet branch of `step` where the fetch fails. -/
theorem step_of_fetch_error {s : State} {p : Packet} {later : List Input} {e : DecodeError}
    (hinput : s.input = .packet p :: later) (hfetch : s.fetch p = .error e) :
    step s = execMalformed p e { s with input := later } := by
  simp only [step, hinput, hfetch]

/-- Settles O53: an index outside the table is none of a client operation and none of the others, so neither reader of
operands knows it. -/
theorem unassignedIndexIsRefused : Obligations.UnassignedIndexIsRefused := by
  intro op rest c rx hop
  have hassigned : ∀ n ∈ clientIndices ++ otherIndices, n ∈ [0x01, 0x02, 0x03, 0x04, 0x10, 0x11, 0x12, 0x20, 0x21, 0x22,
      0x23, 0x30, 0x31, 0x32, 0x33, 0x34, 0x35, 0x36, 0x37, 0x38, 0x40, 0x41] := by decide
  have hread : readOperands op rest = .error (.noSuchOperation op) :=
    readOperands_of_not_mem (fun h => hop (hassigned _ (List.mem_append_left _ h)))
      (fun h => hop (hassigned _ (List.mem_append_right _ h))) rest
  refine ⟨decode_of_readOperands_error hread c rx, fun s later hinput => ?_⟩
  rw [step_of_fetch_error hinput (decode_of_readOperands_error hread s.cfg s.rxContext)]
  rfl

end Machine
end Sys2Proof
end

section
/-! Triples (R97): a triple alone is the block of its bytes, and a packet of this format that is no single triple is the
block of its bytes too (log 15). -/

namespace Sys2Proof.Machine

/-- A block of one triple is that triple and the count (R225). -/
theorem regParse_tripleBytes (id : ParamId) {v : Bytes} (h : v.length ≤ 255) (s : State) :
    regParse (tripleBytes id v) s = (applyTriple id v s).1.result (.count (applyTriple id v s).2) := by
  have hloop := parseBlock_triple id [] h 0 0 s (Nat.le_refl _)
  rw [List.append_nil] at hloop
  rw [regParse_eq, hloop, List.length_nil, parseBlock, Nat.zero_add]

/-- A triple touches no batch, unlike other operations of the registry (R225 to R227). -/
theorem applyTriple_eq (id : ParamId) (v : Bytes) (s : State) :
    ∃ reg diags n, applyTriple id v s = ({ s with reg := reg, diagOut := diags }, n) := by
  rcases applyTriple_cases id v s with ⟨-, h⟩ | ⟨e, -, ⟨-, h⟩ | ⟨-, h⟩⟩
  · exact ⟨_, _, _, h⟩
  · exact ⟨_, _, _, h⟩
  · exact ⟨_, _, _, h⟩

theorem exec_triple (id : ParamId) (v : Bytes) (s : State) :
    exec (.triple id v) s = .next ((applyTriple id v s).1.result (.count (applyTriple id v s).2)) := rfl

theorem lowByte_eq_extractLsb' (v : BitVec 16) : lowByte v = v.extractLsb' 0 8 :=
  BitVec.setWidth_eq_extractLsb' (by decide)

/-- Settles O40: the loop of REG_PARSE takes the one triple and ends; what is no single triple the step gives to REG_PARSE
as it stands. -/
theorem tripleIsTheBlockOfItsBytes : Obligations.TripleIsTheBlockOfItsBytes := by
  refine ⟨fun id tbytes s h => ?_, fun bytes later e s hinput hdecode => ?_⟩
  · have hparse : exec (.regParse (tripleBytes id tbytes)) s = exec (.triple id tbytes) s :=
      congrArg Host.Outcome.next (regParse_tripleBytes id h s)
    obtain ⟨reg, diags, n, heq⟩ := applyTriple_eq id tbytes s
    rw [exec_triple, heq, tripleBytes, lowByte_eq_extractLsb'] at hparse
    rw [exec_triple, heq]
    exact ⟨_, rfl, hparse, rfl⟩
  · rw [step_of_fetch_error hinput hdecode, execMalformed_triple]

end Sys2Proof.Machine
end

section
/-! Messages on the line (R90 to R96): under the invariant the receiver takes them all; the resync byte at a
frame boundary and inside a frame. -/

namespace Sys2Proof.Machine

/-! ## Under the invariant a drain completes -/

/-- "The buffer can therefore never overrun" (R146). -/
theorem State.Inv.rxCount_lt_cap {s : State} (h : s.Inv) : (s.rxCount : Nat) < Config.cap := by
  cases hst : s.rxState with
  | idle => rw [h.idleIff.1 hst]; decide
  | accum =>
    rcases h.partialFrame hst with h5 | ⟨hlt, hcap⟩
    · exact Nat.lt_of_le_of_lt h5 (by decide)
    · exact Nat.lt_of_lt_of_le hlt hcap

/-- With no frame pending a byte is taken (R146, R152). -/
theorem rxByte_completes {s : State} (h : s.Inv) (hp : s.framePending = false) (b : Byte) (now : Time) :
    ∃ t, rxByte b now s = .next t := by
  rcases rxByte_cases b now s with ⟨hp', -⟩ | ⟨-, ⟨-, -, e⟩ | ⟨-, -, -, e⟩ | ⟨-, -, -, e⟩ | ⟨-, e⟩⟩
  · cases hp.symm.trans hp'
  · exact ⟨_, e⟩
  · exact ⟨_, e⟩
  · exact ⟨_, e⟩
  · exact ⟨_, e.trans (accumulate_of_lt (gapCheck_inv h now).rxCount_lt_cap b)⟩

/-- A drain with a time for every waiting byte ends with a frame pending or with no byte waiting (R153). -/
theorem rxDrain_completes {times : List Time} {s : State} (h : s.Inv) (hlen : s.rxQueue.length ≤ times.length) :
    ∃ t, rxDrain times s = .next t ∧ (t.framePending = true ∨ t.rxQueue = []) := by
  induction times generalizing s with
  | nil => exact ⟨s, rfl, .inr (List.eq_nil_of_length_eq_zero (Nat.le_zero.1 hlen))⟩
  | cons now later ih =>
    cases hp : s.framePending with
    | true => exact ⟨s, rxDrain_pending hp _, .inl hp⟩
    | false =>
      cases hq : s.rxQueue with
      | nil => exact ⟨s, rxDrain_empty hq _, .inr hq⟩
      | cons b waiting =>
        have hinv : State.Inv { s with rxQueue := waiting } := keptByActions_inv.queue s waiting h
        obtain ⟨u, hu⟩ := rxByte_completes hinv hp b now
        have hqueue : u.rxQueue = waiting := (rxByte_receiverFrame hu).rxQueue
        rw [hq, List.length_cons, List.length_cons] at hlen
        rw [rxDrain_cons hp hq, hu, andThen_next]
        exact ih (rxByte_inv hinv hu) (hqueue ▸ Nat.le_of_succ_le_succ hlen)

theorem receiveMessage_completes {s : State} (h : s.Inv) (message : Bytes) (now : Time) :
    ∃ t, receiveMessage message now s = .next t ∧ (t.framePending = true ∨ t.rxQueue = []) :=
  rxDrain_completes (keptByActions_inv.queue s (s.rxQueue ++ message) h) (by simp)

/-- Settles O44: a message, well-formed or not, is drained with a time for every byte that then waits. -/
theorem wireMessagesComplete : Obligations.WireMessagesComplete := by
  refine ⟨fun i s h hi => ?_, fun fmt message now later e s h hfmt hinput hdecode => ?_⟩
  · rcases hi with ⟨seq, command, dummy, payload, ck, now, rfl⟩ | ⟨seq, command, dummy, payload, ck, now, rfl⟩ | ⟨now, rfl⟩
    all_goals exact receiveMessage_completes h _ now
  · obtain ⟨t, ht, hend⟩ := receiveMessage_completes (h.setInput later) message now
    rw [step_of_fetch_error hinput hdecode, execMalformed_message hfmt]
    exact ⟨t, ht, hend, ht⟩

/-! ## The resync byte (R96) -/

/-- Appending a byte raises no event. -/
theorem accumulate_evOut {b : Byte} {s t : State} (h : accumulate b s = .next t) : t.evOut = s.evOut := by
  by_cases hroom : (s.rxCount : Nat) < Config.cap
  · rw [accumulate_of_lt hroom] at h
    cases h
    exact afterAppend_evOut _
  · rw [accumulate_of_not_lt hroom] at h
    cases h

/-- Inside a frame, within the inter-byte timeout, the gap check only takes the time (R142). -/
theorem gapCheck_of_accum {s : State} (hst : s.rxState = .accum) {now : Time}
    (htime : (elapsed now s.rxLastTime).toNat ≤ s.cfg.tInterbyte.toNat) : gapCheck now s = { s with rxLastTime := now } := by
  apply gapCheck_of_no_timeout
  rw [interByteTimeout_of_accum hst]
  exact decide_eq_false (Nat.not_lt.2 htime)

/-- Inside a frame, within the inter-byte timeout, any byte is data (R146). -/
theorem rxByte_of_accum {s : State} (hp : s.framePending = false) (hst : s.rxState = .accum) {now : Time}
    (htime : (elapsed now s.rxLastTime).toNat ≤ s.cfg.tInterbyte.toNat) (b : Byte) :
    rxByte b now s = accumulate b { s with rxLastTime := now } := by
  have hclass : State.rxClass { s with rxLastTime := now } b = .data := (rxClass_eq_data_iff _ b).2 hst
  rw [rxByte_eq_case b now hp, gapCheck_of_accum hst htime, hclass]

/-- The row RX.DATA does there what RX_BYTE does. -/
theorem exec_rxData_of_accum {s : State} (hp : s.framePending = false) (hq : s.rxQueue = []) (hst : s.rxState = .accum)
    {now : Time} (htime : (elapsed now s.rxLastTime).toNat ≤ s.cfg.tInterbyte.toNat) (b : Byte) :
    exec (.rxData b now) s = accumulate b { s with rxLastTime := now } := by
  have hclass : State.rxClass { s with rxLastTime := now } b = .data := (rxClass_eq_data_iff _ b).2 hst
  rw [exec, execRxData, rxCase, feedByte_inStreamOrder hp ((inStreamOrder_iff s b).2 (.inl hq)), takeByte_of_nil hq,
    gapCheck_of_accum hst htime, if_pos hclass]

/-- At a frame boundary the start marker opens a frame (R143). -/
theorem rxByte_startMarker {s : State} (hp : s.framePending = false) (hst : s.rxState = .idle) (now : Time) :
    rxByte s.cfg.startMarker now s = .next (openFrame s.cfg.startMarker { s with rxLastTime := now }) := by
  have hclass : State.rxClass { s with rxLastTime := now } s.cfg.startMarker = .start :=
    (rxClass_idle hst _).trans (if_pos rfl)
  rw [rxByte_eq_case _ now hp, gapCheck_of_no_timeout (interByteTimeout_of_idle hst), hclass]

/-- At a frame boundary the resync marker resynchronizes (R144). -/
theorem rxByte_resyncMarker {s : State} (hp : s.framePending = false) (hst : s.rxState = .idle)
    (hmarkers : s.cfg.startMarker ≠ s.cfg.resyncMarker) (now : Time) :
    rxByte s.cfg.resyncMarker now s = .next (State.resync { s with rxLastTime := now } .marker) := by
  have hclass : State.rxClass { s with rxLastTime := now } s.cfg.resyncMarker = .resync :=
    (rxClass_idle hst _).trans ((if_neg hmarkers.symm).trans (if_pos rfl))
  rw [rxByte_eq_case _ now hp, gapCheck_of_no_timeout (interByteTimeout_of_idle hst), hclass]

/-- Settles O45: with no byte waiting the message is one received byte. -/
theorem resyncByteOnlyAtAFrameBoundary : Obligations.ResyncByteOnlyAtAFrameBoundary := by
  intro now s h hp hq hmarkers
  have hexec : exec (.resyncByte now) s = rxByte s.cfg.resyncMarker now s := receiveMessage_one _ now hp hq
  refine ⟨fun hst => ?_, fun hst htime => ?_⟩
  · rw [hexec, rxByte_resyncMarker hp hst hmarkers]
    simp [State.resync, hp]
  · obtain ⟨t, ht⟩ := rxByte_completes h hp s.cfg.resyncMarker now
    have hacc : accumulate s.cfg.resyncMarker { s with rxLastTime := now } = .next t :=
      (rxByte_of_accum hp hst htime _).symm.trans ht
    have hevents := accumulate_evOut hacc
    exact ⟨t, hexec.trans ht, (exec_rxData_of_accum hp hq hst htime _).trans hacc, hevents⟩

end Sys2Proof.Machine
end

section
/-! A whole frame on the line (R90, R146 to R150): taken byte by byte it stands in the receive buffer, and a valid one is
latched. -/

namespace Sys2Proof.Machine

/-! ## The bytes of a frame in the receive buffer -/

/-- The first `n` bytes of a buffer are `bs` (R23, R24). -/
structure HoldsBytes (n : Count) (buf : Memory) (bs : Bytes) : Prop where
  bufWf : buf.wf = true
  count : (n : Nat) = bs.length
  slice : buf.slice 0 n = bs

theorem HoldsBytes.read {n : Count} {buf : Memory} {bs : Bytes} (h : HoldsBytes n buf bs) {k : Nat} (hk : k < bs.length) :
    buf.read k = frameByte bs k := by
  have hread := Memory.slice_getD buf 0 (h.count.symm ▸ hk) 0
  rw [h.slice, Nat.zero_add] at hread
  exact hread.symm

/-- One more byte is stored behind the others (R146). -/
theorem HoldsBytes.append {n : Count} {buf : Memory} {bs : Bytes} (h : HoldsBytes n buf bs) (hn : (n : Nat) < Config.cap)
    (b : Byte) : HoldsBytes ⟨n + 1, Nat.succ_lt_succ hn⟩ (buf.write n b) (bs ++ [b]) where
  bufWf := Memory.write_wf h.bufWf b hn
  count := by simp [h.count]
  slice := by
    have hwrite := Memory.slice_write_end (Memory.wf_rising h.bufWf) 0 n b
    rw [h.slice, Nat.zero_add] at hwrite
    exact hwrite

/-- The start marker of a frame (R143). -/
theorem openFrame_holdsBytes {s : State} (hw : s.rxBuf.wf = true) (b : Byte) :
    HoldsBytes (openFrame b s).rxCount (openFrame b s).rxBuf [b] where
  bufWf := Memory.write_wf hw b (by decide)
  count := rfl
  slice := Memory.slice_write_end (Memory.wf_rising hw) 0 0 b

/-! ## The last byte and those before it -/

/-- A frame as long as its length byte declares, and no longer than the buffer (R90, R100). -/
structure LegalLength (f : Bytes) : Prop where
  atLeast : 7 ≤ f.length
  declared : f.length = frameTotal (frameByte f 5)
  fits : f.length ≤ Config.cap

/-- Before the last byte there is room for one more (R146). -/
theorem LegalLength.room {done tail : Bytes} {b : Byte} (hf : LegalLength (done ++ b :: tail)) :
    done.length < Config.cap := by
  have hfits := hf.fits
  rw [List.length_append, List.length_cons] at hfits
  omega

/-- Before its last byte a frame of legal length goes on (R148, R149). -/
theorem afterAppend_of_more {s : State} {done rest : Bytes} (hf : LegalLength (done ++ rest))
    (h : HoldsBytes s.rxCount s.rxBuf done) (hrest : rest ≠ []) : afterAppend s = s := by
  have hmore : 0 < rest.length := List.length_pos_iff.2 hrest
  have hread (h5 : 5 < done.length) : s.rxBuf.read 5 = frameByte (done ++ rest) 5 := by
    rw [h.read h5, frameByte_append_left h5]
  have hdeclared := hf.declared
  have hfits := hf.fits
  rw [List.length_append] at hdeclared hfits
  rcases afterAppend_cases s with ⟨h6, hover, -⟩ | ⟨h7, htotal, -⟩ | ⟨-, -, e⟩
  · rw [h.count] at h6
    rw [hread (by omega)] at hover
    omega
  · rw [h.count] at h7 htotal
    rw [hread (by omega)] at htotal
    omega
  · exact e

/-- At its last byte a frame of legal length is complete (R149). -/
theorem afterAppend_of_whole {s : State} {f : Bytes} (hf : LegalLength f) (h : HoldsBytes s.rxCount s.rxBuf f) :
    afterAppend s = completeFrame s := by
  have h7 := hf.atLeast
  have hread : s.rxBuf.read 5 = frameByte f 5 := h.read (by omega)
  rcases afterAppend_cases s with ⟨h6, -, -⟩ | ⟨-, -, e⟩ | ⟨-, hmore, -⟩
  · rw [h.count] at h6
    omega
  · exact e
  · rw [h.count, hread] at hmore
    exact absurd hf.declared (hmore h7)

/-- A whole frame that VERIFY accepts is latched as it stands in the buffer (R150). -/
theorem completeFrame_of_verified {s : State} {f : Bytes} (h : HoldsBytes s.rxCount s.rxBuf f)
    (hf : verifyFrame f = true) : completeFrame s = { s with
      rxState := .idle
      rxCount := 0
      pendBuf := s.pendBuf.store 0 f
      pendLen := s.rxCount
      framePending := true
      awaiting := awaitingAfterFrame s.awaiting (frameByte f 3) } := by
  obtain ⟨h7, -, hsum⟩ := (verifyFrame_iff f).1 hf
  have hck : cksum (s.rxBuf.slice 0 (s.rxCount - 1)) = s.rxBuf.read (s.rxCount - 1) := by
    have hslice := h.slice
    have hcount := h.count
    obtain ⟨n, hn⟩ : ∃ n, (s.rxCount : Nat) = n + 1 := ⟨s.rxCount - 1, by omega⟩
    rw [hn, Memory.slice_succ, Nat.zero_add] at hslice
    rw [← hslice, byteSum_append, byteSum_cons, byteSum_nil, Nat.add_zero] at hsum
    rw [hn, Nat.add_sub_cancel, cksum_eq_iff]
    exact hsum
  rcases completeFrame_cases s with ⟨hbad, -⟩ | ⟨-, e⟩
  · exact absurd hck hbad
  · rw [e, h.slice, h.read (by omega)]

/-! ## Draining a frame -/

/-- A drain takes the next byte of a frame under way, within the inter-byte timeout (R142, R146, R153). -/
theorem rxDrain_data {s : State} (hp : s.framePending = false) (hst : s.rxState = .accum) {done waiting : Bytes} {b : Byte}
    (h : HoldsBytes s.rxCount s.rxBuf done) (hroom : done.length < Config.cap) (hq : s.rxQueue = b :: waiting) {now : Time}
    (htime : (elapsed now s.rxLastTime).toNat ≤ s.cfg.tInterbyte.toNat) (later : List Time) :
    ∃ n buf, HoldsBytes n buf (done ++ [b]) ∧ rxDrain (now :: later) s = rxDrain later
      (afterAppend { s with rxCount := n, rxBuf := buf, rxLastTime := now, rxQueue := waiting }) := by
  have hcount : (s.rxCount : Nat) < Config.cap := h.count ▸ hroom
  refine ⟨_, _, h.append hcount b, ?_⟩
  have hbyte := (rxByte_of_accum (s := { s with rxQueue := waiting }) hp hst htime b).trans
    (accumulate_of_lt (s := { s with rxLastTime := now, rxQueue := waiting }) hcount b)
  rw [rxDrain_cons hp hq, hbyte, andThen_next]

/-- A frame under way whose other bytes wait, each read within the inter-byte timeout, is drained up to its last byte,
which completes it. -/
theorem rxDrain_rest_of_frame {done tail after : Bytes} {b : Byte} (hf : LegalLength (done ++ b :: tail))
    {times : List Time} {s : State} (hp : s.framePending = false) (hst : s.rxState = .accum)
    (h : HoldsBytes s.rxCount s.rxBuf done) (hq : s.rxQueue = b :: (tail ++ after)) (hlen : tail.length < times.length)
    (htimes : pausesWithin s.cfg.tInterbyte s.rxLastTime times = true) :
    ∃ n buf, HoldsBytes n buf (done ++ b :: tail) ∧ ∃ now ∈ times, ∃ later, rxDrain times s = rxDrain later
      (completeFrame { s with rxCount := n, rxBuf := buf, rxLastTime := now, rxQueue := after }) := by
  induction tail generalizing done b times s with
  | nil =>
    obtain ⟨now, later, rfl⟩ := List.exists_cons_of_length_pos (Nat.zero_lt_of_lt hlen)
    obtain ⟨htime, -⟩ := Bool.and_eq_true_iff.1 htimes
    obtain ⟨n, buf, hbytes, e⟩ := rxDrain_data hp hst h hf.room hq (of_decide_eq_true htime) later
    rw [afterAppend_of_whole hf hbytes] at e
    exact ⟨n, buf, hbytes, now, List.mem_cons_self, later, e⟩
  | cons b' tail ih =>
    obtain ⟨now, later, rfl⟩ := List.exists_cons_of_length_pos (Nat.zero_lt_of_lt hlen)
    obtain ⟨htime, hlater⟩ := Bool.and_eq_true_iff.1 htimes
    obtain ⟨n, buf, hbytes, e⟩ := rxDrain_data hp hst h hf.room hq (of_decide_eq_true htime) later
    rw [List.append_cons] at hf ⊢
    rw [afterAppend_of_more hf hbytes (List.cons_ne_nil b' tail)] at e
    obtain ⟨n', buf', hbytes', now', hmem, later', e'⟩ := ih (times := later)
      (s := { s with rxCount := n, rxBuf := buf, rxLastTime := now, rxQueue := b' :: (tail ++ after) })
      hf hp hst hbytes rfl (Nat.lt_of_succ_lt_succ hlen) hlater
    exact ⟨n', buf', hbytes', now', List.mem_cons_of_mem _ hmem, later', e.trans e'⟩

/-- A frame that waits at an idle receiver is drained up to its last byte, which completes it (R143, R146, R153). -/
theorem rxDrain_frame {s : State} (h : s.Inv) (hp : s.framePending = false) (hst : s.rxState = .idle) {tail after : Bytes}
    (hf : LegalLength (s.cfg.startMarker :: tail)) (hq : s.rxQueue = s.cfg.startMarker :: tail ++ after) {now : Time}
    {later : List Time} (hlen : tail.length ≤ later.length) (htimes : pausesWithin s.cfg.tInterbyte now later = true) :
    ∃ n buf, HoldsBytes n buf (s.cfg.startMarker :: tail) ∧ ∃ last ∈ later, ∃ unused,
      rxDrain (now :: later) s = rxDrain unused (completeFrame
        { s with rxState := .accum, rxCount := n, rxBuf := buf, rxLastTime := last, rxQueue := after }) := by
  cases tail with
  | nil => exact absurd hf.atLeast (by simp)
  | cons b tail =>
    have hopen := rxByte_startMarker (s := { s with rxQueue := b :: tail ++ after }) hp hst now
    obtain ⟨n, buf, hbytes, last, hlast, unused, e⟩ := rxDrain_rest_of_frame (done := [s.cfg.startMarker]) (after := after)
      (s := openFrame s.cfg.startMarker { s with rxLastTime := now, rxQueue := b :: tail ++ after }) hf hp rfl
      (openFrame_holdsBytes h.rxBufWf _) rfl hlen htimes
    refine ⟨n, buf, hbytes, last, hlast, unused, ?_⟩
    rw [rxDrain_cons hp hq]
    exact (congrArg (andThen · (rxDrain later)) hopen).trans e

/-- Readings that are all the same have no pauses between them. -/
theorem pausesWithin_replicate (limit now : Time) (n : Nat) : pausesWithin limit now (List.replicate n now) = true := by
  induction n with
  | zero => rfl
  | succ n ih => simp [List.replicate_succ, pausesWithin, elapsed, ih]

/-- A frame that VERIFY accepts, arriving at an idle receiver with no byte waiting, is latched (R92, R150). -/
theorem receiveMessage_verified {s : State} (h : s.Inv) (hp : s.framePending = false) (hst : s.rxState = .idle)
    (hq : s.rxQueue = []) {tail : Bytes} (hf : verifyFrame (s.cfg.startMarker :: tail) = true)
    (hfits : (s.cfg.startMarker :: tail).length ≤ Config.cap) (now : Time) :
    ∃ (n : Count) (buf : Memory), (n : Nat) = (s.cfg.startMarker :: tail).length ∧
      receiveMessage (s.cfg.startMarker :: tail) now s = .next { s with
        rxBuf := buf
        rxLastTime := now
        framePending := true
        pendLen := n
        pendBuf := s.pendBuf.store 0 (s.cfg.startMarker :: tail)
        awaiting := awaitingAfterFrame s.awaiting (frameByte (s.cfg.startMarker :: tail) 3) } := by
  obtain ⟨h7, hdeclared, -⟩ := (verifyFrame_iff _).1 hf
  have hqueue : s.rxQueue ++ s.cfg.startMarker :: tail = s.cfg.startMarker :: tail ++ [] := by
    rw [hq, List.nil_append, List.append_nil]
  have htimes : List.replicate (s.rxQueue.length + (s.cfg.startMarker :: tail).length) now =
      now :: List.replicate tail.length now := by
    rw [hq, List.length_nil, Nat.zero_add, List.length_cons, List.replicate_succ]
  have hcount : s.rxCount = 0 := Fin.ext (h.idleIff.1 hst)
  obtain ⟨n, buf, hbytes, last, hlast, unused, e⟩ := rxDrain_frame
    (s := { s with rxQueue := s.rxQueue ++ s.cfg.startMarker :: tail }) (after := []) (keptByActions_inv.queue s _ h) hp hst
    ⟨h7, hdeclared, hfits⟩ hqueue (by rw [List.length_replicate]) (pausesWithin_replicate _ now tail.length)
  rw [List.eq_of_mem_replicate hlast, completeFrame_of_verified hbytes hf] at e
  have hend := e.trans (rxDrain_pending rfl unused)
  refine ⟨n, buf, hbytes.count, ?_⟩
  rw [receiveMessage, htimes, hend]
  simp [hst, hcount, hq]

/-! ## The frame rows (R90, R92) -/

theorem frameBytes_length (marker seq : Byte) (command : BitVec 16) (dummy : Byte) (payload : Bytes) (ck : Byte) :
    (frameBytes marker seq command dummy payload ck).length = payload.length + 7 := by
  simp [frameBytes]

/-- A frame row declares its own length, so VERIFY looks at its sum only (R90, R126). -/
theorem verifyFrame_frameBytes_iff (marker seq : Byte) (command : BitVec 16) (dummy : Byte) {payload : Bytes}
    (h : payload.length ≤ Config.maxPayload) (ck : Byte) :
    verifyFrame (frameBytes marker seq command dummy payload ck) = true ↔
      byteSum (frameBytes marker seq command dummy payload ck) % 256 = 0 := by
  have hdeclared : frameTotal (frameByte (frameBytes marker seq command dummy payload ck) 5) = payload.length + 7 :=
    congrArg (· + 7) (toNat_lengthByte (h.trans (by decide)))
  rw [verifyFrame_iff, frameBytes_length, hdeclared]
  exact ⟨fun ⟨_, _, hsum⟩ => hsum, fun hsum => ⟨Nat.le_add_left .., rfl, hsum⟩⟩

/-- The two frame rows differ in the response flag only (R92). -/
theorem exec_frame (response : Bool) (seq : Byte) (command : BitVec 15) (dummy : Byte) (payload : Bytes) (ck : Byte)
    (now : Time) (s : State) :
    exec (if response then .frameRsp seq command dummy payload ck now else .frameReq seq command dummy payload ck now) s =
      receiveMessage (frameBytes s.cfg.startMarker seq (commandWord response command) dummy payload ck) now s := by
  cases response <;> rfl

/-- Settles O43: the frame has the length it declares, so with its sum VERIFY accepts it and the receiver latches it; its
response flag is the top bit of its command's high byte. -/
theorem arrivingFrameIsLatched : Obligations.ArrivingFrameIsLatched := by
  intro seq command dummy payload ck now s h hp hst hq hpayload response hsum
  rw [← lowByte_commandWord response, ← highByte_commandWord] at hsum ⊢
  have hverify := (verifyFrame_frameBytes_iff s.cfg.startMarker seq (commandWord response command) dummy hpayload ck).2
    ((congrArg (· % 256) (byteSum_eq_sum _)).trans hsum)
  have hlength := frameBytes_length s.cfg.startMarker seq (commandWord response command) dummy payload ck
  obtain ⟨n, buf, hn, e⟩ := receiveMessage_verified h hp hst hq hverify
    (hlength.trans_le (Nat.add_le_add_right hpayload 7)) now
  refine ⟨_, (exec_frame ..).trans e, ?_, ?_⟩
  · have hflag : awaitingAfterFrame s.awaiting (highByte (commandWord response command)) =
        if response then false else s.awaiting := by
      rw [awaitingAfterFrame, highByte_commandWord_msb]
    rw [← hflag]
    rfl
  · rw [hn]
    exact Memory.slice_store (Memory.wf_rising h.pendBufWf) 0 _

end Sys2Proof.Machine
end

section
/-! The frame codec (spec/40_codec.md): the operations answer what the checksum, ENCODE, VERIFY and the frame's fields
compute. -/

namespace Sys2Proof.Machine

/-! ## CKSUM (R121) -/

/-- Settles O1: the checksum is the one byte `cksum_eq_iff` names. -/
theorem checksumCompletesTheByteSum : Obligations.ChecksumCompletesTheByteSum := by
  intro bytes s
  simp only [← byteSum_eq_sum]
  exact ⟨cksum bytes, rfl, (cksum_eq_iff bytes _).1 rfl, fun d hd => ((cksum_eq_iff bytes d).2 hd).symm⟩

/-! ## ENCODE (R101, R123) -/

/-- The header's share of a frame's sum; the length byte holds the whole length (R101). -/
theorem byteSum_frameHeader (c : Config.Params) (counter : Byte) (command : BitVec 16) {n : Nat}
    (h : n ≤ Config.maxPayload) : byteSum (frameHeader c counter command n) =
      c.startMarker.toNat + counter.toNat + command.toNat % 256 + command.toNat / 256 + c.dummyTx.toNat + n := by
  simp only [frameHeader, byteSum_cons, byteSum_nil, lowByte_toNat, highByte_toNat,
    toNat_lengthByte (h.trans (by decide))]
  omega

theorem exec_encode_of_some {counter : Byte} {command : BitVec 16} {payload f : Bytes} {s : State}
    (h : encodeFrame s.cfg counter command payload = some f) :
    exec (.encode counter command payload) s = .next (s.result (.frame f)) := by
  change execEncode counter command payload s = _
  rw [execEncode, h]

theorem exec_encode_of_none {counter : Byte} {command : BitVec 16} {payload : Bytes} {s : State}
    (h : encodeFrame s.cfg counter command payload = none) :
    exec (.encode counter command payload) s = .next (s.result .encodeFail) := by
  change execEncode counter command payload s = _
  rw [execEncode, h]

/-- Settles O2: the last byte is the checksum of header and payload, and FAIL begins where the frame exceeds CAP. -/
theorem encodeBuildsTheFrameOrFails : Obligations.EncodeBuildsTheFrameOrFails := by
  intro counter command payload s
  refine ⟨fun hfit => ?_, fun hlong => exec_encode_of_none ((encodeFrame_none_iff ..).2 hlong)⟩
  have hframe := exec_encode_of_some (encodeFrame_of_le s.cfg counter command hfit)
  have hsum := (cksum_eq_iff (frameHeader s.cfg counter command payload.length ++ payload) _).1 rfl
  rw [byteSum_append, byteSum_frameHeader s.cfg counter command hfit, byteSum_eq_sum payload] at hsum
  rw [← lowByte_eq_extractLsb']
  exact ⟨_, hframe, hsum⟩

/-! ## VERIFY (R126) -/

theorem exec_verify (f : Bytes) (s : State) : exec (.verify f) s = .next (s.result (.bool (verifyFrame f))) := rfl

/-- The answer of VERIFY, read off the state it leaves. -/
theorem exec_verify_eq_iff (f : Bytes) (s : State) (ok : Bool) :
    exec (.verify f) s = .next (s.result (.bool ok)) ↔ verifyFrame f = ok := by
  rw [exec_verify]
  refine ⟨fun h => ?_, fun h => by rw [h]⟩
  have hout : s.resOut ++ [.bool (verifyFrame f)] = s.resOut ++ [.bool ok] :=
    congrArg State.resOut (Host.Outcome.next.inj h)
  simpa using hout

/-- Settles O3: `verifyFrame_iff` in the statement's terms. -/
theorem verifyAcceptsExactlyWholeSums : Obligations.VerifyAcceptsExactlyWholeSums := by
  intro f s
  rw [← byteSum_eq_sum]
  exact ⟨verifyFrame f, exec_verify f s, verifyFrame_iff f⟩

/-- Storing one byte exchanges its share of the sum. -/
theorem byteSum_set {f : Bytes} {i : Nat} (hi : i < f.length) (v : Byte) :
    byteSum (f.set i v) + (f.getD i 0).toNat = byteSum f + v.toNat := by
  induction f generalizing i with
  | nil => cases hi
  | cons b f ih =>
    cases i with
    | zero => simp only [List.set_cons_zero, List.getD_cons_zero, byteSum_cons]; omega
    | succ i =>
      have := ih (Nat.lt_of_succ_lt_succ hi)
      simp only [List.set_cons_succ, List.getD_cons_succ, byteSum_cons]
      omega

/-- Two bytes that differ do so modulo 256, so a sum of 0 does not survive the change of one. -/
theorem verifyFrame_set {f : Bytes} (hf : verifyFrame f = true) {i : Nat} (hi : i < f.length) {v : Byte}
    (hv : v ≠ f.getD i 0) : verifyFrame (f.set i v) = false := by
  obtain ⟨-, -, hsum⟩ := (verifyFrame_iff f).1 hf
  rw [Bool.eq_false_iff]
  intro hset
  obtain ⟨-, -, hsum'⟩ := (verifyFrame_iff _).1 hset
  have hchange := byteSum_set hi v
  exact hv (BitVec.eq_of_toNat_eq (by omega))

/-- Settles O4: whatever else the change touches, the sum is no longer 0. -/
theorem verifyRejectsOneChangedByte : Obligations.VerifyRejectsOneChangedByte := by
  intro f i v s h hi hv
  have hf : verifyFrame f = true := (exec_verify_eq_iff f s true).1 h
  exact (exec_verify_eq_iff (f.set i v) s false).2 (verifyFrame_set hf hi hv)

/-- Settles O5: the frame ENCODE answers with is the one of `verifyFrame_encodeFrame`. -/
theorem encodedFramesVerify : Obligations.EncodedFramesVerify := by
  intro counter command payload s hfit
  have hframe := encodeFrame_of_le s.cfg counter command hfit
  exact ⟨_, exec_encode_of_some hframe, (exec_verify_eq_iff _ s true).2 (verifyFrame_encodeFrame hframe)⟩

/-! ## FIELDS (R100, R128) -/

theorem Memory.drop_slice (m : Memory) (i n k : Nat) : (m.slice i n).drop k = m.slice (i + k) (n - k) := by
  induction k generalizing i n with
  | zero => rfl
  | succ k ih =>
    cases n with
    | zero => simp [Memory.slice]
    | succ n => rw [Memory.slice, List.drop_succ_cons, ih, Nat.add_right_comm, Nat.add_assoc, Nat.succ_sub_succ]

theorem Memory.take_slice (m : Memory) (i : Nat) {n k : Nat} (h : k ≤ n) : (m.slice i n).take k = m.slice i k := by
  induction k generalizing i n with
  | zero => rfl
  | succ k ih =>
    cases n with
    | zero => cases h
    | succ n => rw [Memory.slice, List.take_succ_cons, ih _ (Nat.le_of_succ_le_succ h), Memory.slice]

theorem frameByte_slice (m : Memory) {n k : Nat} (hk : k < n) : frameByte (m.slice 0 n) k = m.read k :=
  (Memory.slice_getD m 0 hk 0).trans (by rw [Nat.zero_add])

/-- The record of a frame that stands at the start of a buffer (R100). -/
theorem frameRecord_slice (m : Memory) {n : Nat} (h : n = frameTotal (m.read 5)) : frameRecord (m.slice 0 n) =
    { seq := m.read 1
      command := word16 (m.read 2) (m.read 3)
      isResponse := (m.read 3).msb
      dummy := m.read 4
      len := m.read 5
      payload := m.slice 6 (m.read 5).toNat
      cksum := m.read (n - 1)
      raw := m.slice 0 n } := by
  have hn : n = (m.read 5).toNat + 7 := h
  have hbyte : ∀ k < n, frameByte (m.slice 0 n) k = m.read k := fun k hk => frameByte_slice m hk
  rw [frameRecord, Memory.slice_length, hbyte 1 (by omega), hbyte 2 (by omega), hbyte 3 (by omega), hbyte 4 (by omega),
    hbyte 5 (by omega), hbyte (n - 1) (by omega), Memory.drop_slice, Nat.zero_add, Memory.take_slice m 6 (by omega)]

theorem fields_of_not_pending {s : State} (h : s.framePending = false) : fields s = s.result .absent := by
  rw [fields, h]
  rfl

theorem fields_of_pending {s : State} (h : s.framePending = true) :
    fields s = s.result (.fields (frameRecord s.pendingFrame)) := by
  rw [fields, if_pos h]

/-- Settles O6: the pending frame is a slice of the latch, so its fields are the latch's bytes. -/
theorem fieldsReadsTheLatch : Obligations.FieldsReadsTheLatch := by
  intro s
  refine ⟨fun hp => congrArg Host.Outcome.next (fields_of_not_pending hp), fun hp hlen => ?_⟩
  have hfields : exec .fields s = _ := congrArg Host.Outcome.next (fields_of_pending hp)
  rw [State.pendingFrame, frameRecord_slice s.pendBuf hlen, BitVec.msb_eq_getLsbD_last] at hfields
  exact hfields

end Sys2Proof.Machine
end

section
/-! Bytes that the client feeds directly (R141, R142, R152, R247): a row of RX_BYTE is RX_BYTE behind its condition, so what
holds of RX_BYTE holds of the row its byte falls under. -/

namespace Sys2Proof.Machine

/-! ## The rows of RX_BYTE -/

theorem exec_rxByte_eq_feedByte (b : Byte) (now : Time) (s : State) :
    exec (.rxByte b now) s = feedByte b (rxByte b now) s := rfl

theorem feedByte_pending {s : State} (hp : s.framePending = true) (b : Byte) (feed : State → Outcome) :
    feedByte b feed s = .refused .rxWhileFramePending := by
  rw [feedByte, if_pos hp]

theorem feedByte_overtaking {s : State} (hp : s.framePending = false) {b oldest : Byte} {waiting : Bytes}
    (hq : s.rxQueue = oldest :: waiting) (hne : oldest ≠ b) (feed : State → Outcome) :
    feedByte b feed s = .refused .rxOutOfStreamOrder := by
  simp [feedByte, State.inStreamOrder, hp, hq, hne]

/-- What is done with a directly fed byte matters only where it is taken. -/
theorem feedByte_congr {b : Byte} {feed feed' : State → Outcome} {s : State}
    (h : s.framePending = false → feed s.takeByte = feed' s.takeByte) : feedByte b feed s = feedByte b feed' s := by
  rcases feedByte_cases b feed s with ⟨hp, e⟩ | ⟨hp, hq, e⟩ | ⟨hp, hq, e⟩ <;> rw [e]
  · exact (feedByte_pending hp b feed').symm
  · simp [feedByte, hp, hq]
  · rw [feedByte_inStreamOrder hp hq, h hp]

/-- The effect of each row of RX_BYTE (R143 to R146). -/
def rowEffect (k : RxClass) (b : Byte) (s : State) : Outcome :=
  match k with
  | .start => .next (openFrame b s)
  | .resync => .next (s.resync .marker)
  | .noise => .next (dropNoise b s)
  | .data => accumulate b s

theorem exec_rxClass_eq_rxCase (k : RxClass) (b : Byte) (now : Time) (s : State) :
    exec (k.toInstr b now) s = rxCase k b now (rowEffect k b) s := by
  cases k <;> rfl

theorem rxByte_eq_effect (b : Byte) (now : Time) {s : State} (hp : s.framePending = false) :
    rxByte b now s = rowEffect ((gapCheck now s).rxClass b) b (gapCheck now s) := by
  rw [rxByte_eq_case b now hp]
  rfl

/-- The row `k` is RX_BYTE behind its condition (R141, log 13). -/
theorem exec_rxClass_eq_feedByte (k : RxClass) (b : Byte) (now : Time) (s : State) :
    exec (k.toInstr b now) s = feedByte b (fun u =>
      if (gapCheck now u).rxClass b = k then rxByte b now u else .refused .rxCaseDoesNotApply) s := by
  rw [exec_rxClass_eq_rxCase]
  refine feedByte_congr fun hp => ?_
  split
  · next hk => rw [rxByte_eq_effect b now (s := s.takeByte) hp, hk]
  · rfl

/-- The row its byte falls under does what RX_BYTE does (R141). -/
theorem exec_rxClass_of_applies {k : RxClass} {b : Byte} {now : Time} {s : State}
    (hk : (gapCheck now s.takeByte).rxClass b = k) : exec (k.toInstr b now) s = exec (.rxByte b now) s := by
  rw [exec_rxClass_eq_feedByte]
  exact feedByte_congr fun _ => if_pos hk

/-- The class of a byte does not depend on what waits behind it. -/
theorem rxClass_takeByte (b : Byte) (now : Time) (s : State) :
    (gapCheck now s.takeByte).rxClass b = classify s.cfg (stateAfterGap s.cfg s.rxContext now) b :=
  (classify_stateAfterGap b now s.takeByte).symm

/-- Settles O7: a pending frame is looked at before the byte. -/
theorem backpressureStopsTheReceiver : Obligations.BackpressureStopsTheReceiver := by
  intro b now times s hp
  refine ⟨feedByte_pending hp b _, fun k => ?_, rxDrain_pending hp times⟩
  rw [exec_rxClass_eq_feedByte]
  exact feedByte_pending hp b _

/-- Settles O8: each row is RX_BYTE behind its condition, and the stream order is looked at before either. -/
theorem rxByteRunsTheCaseOfItsByte : Obligations.RxByteRunsTheCaseOfItsByte := by
  intro b now s k hp
  rw [← rxClass_takeByte]
  refine ⟨fun hk => exec_rxClass_of_applies hk.symm, fun hk hq => ?_, fun oldest waiting hq hne => ?_⟩
  · rw [exec_rxClass_eq_feedByte, feedByte_inStreamOrder hp hq, if_neg hk.symm]
  · rw [exec_rxClass_eq_feedByte]
    exact ⟨feedByte_overtaking hp hq hne _, feedByte_overtaking hp hq hne _⟩

/-! ## The gap check (R142) -/

/-- Beyond its gap check RX_BYTE does not look at the state. -/
theorem rxByte_congr_gapCheck {b : Byte} {now : Time} {s s' : State} (h : gapCheck now s = gapCheck now s') :
    rxByte b now s = rxByte b now s' := by
  have hp : s.framePending = s'.framePending := by simpa using congrArg State.framePending h
  rw [rxByte, rxByte, h, hp]

theorem gapCheck_takeByte (now : Time) (s : State) : gapCheck now s.takeByte = (gapCheck now s).takeByte := by
  rw [gapCheck_eq, gapCheck_eq]
  rfl

theorem exec_rxByte_congr_gapCheck {now : Time} {s s' : State} (h : gapCheck now s = gapCheck now s') (b : Byte) :
    exec (.rxByte b now) s = exec (.rxByte b now) s' := by
  have hp : s.framePending = s'.framePending := by simpa using congrArg State.framePending h
  have hq : s.rxQueue = s'.rxQueue := by simpa using congrArg State.rxQueue h
  have horder : s.inStreamOrder b = s'.inStreamOrder b := by rw [State.inStreamOrder, hq, State.inStreamOrder]
  have hbyte : rxByte b now s.takeByte = rxByte b now s'.takeByte :=
    rxByte_congr_gapCheck (by rw [gapCheck_takeByte, h, gapCheck_takeByte])
  rw [exec_rxByte_eq_feedByte, exec_rxByte_eq_feedByte, feedByte, feedByte, hp, horder, hbyte]

/-- Settles O9: in each clause the two states are alike after the gap check. -/
theorem gapDropsThePartialFrame : Obligations.GapDropsThePartialFrame := by
  intro b now last s
  refine ⟨fun hst hlong => ?_, fun hst hshort => exec_rxByte_congr_gapCheck ?_ b,
    fun hst => exec_rxByte_congr_gapCheck ?_ b⟩
  · have htimeout : s.interByteTimeout now = true := (interByteTimeout_of_accum hst).trans (decide_eq_true hlong)
    split
    · next hp => exact feedByte_pending hp b _
    · refine exec_rxByte_congr_gapCheck ?_ b
      rw [gapCheck_of_timeout htimeout, gapCheck_of_no_timeout (interByteTimeout_of_idle rfl)]
  · have hnow : (elapsed now now).toNat ≤ s.cfg.tInterbyte.toNat := by simp [elapsed]
    rw [gapCheck_of_accum hst hshort, gapCheck_of_accum (s := { s with rxLastTime := now }) hst hnow]
  · rw [gapCheck_of_no_timeout (interByteTimeout_of_idle hst),
      gapCheck_of_no_timeout (s := { s with rxLastTime := last }) (interByteTimeout_of_idle hst)]

/-! ## The first byte (R143 to R145) -/

/-- With no frame pending a byte fed in stream order is RX_BYTE of it, and so is the row it falls under. -/
theorem exec_rxByte_inStreamOrder {b : Byte} {now : Time} {s : State} (hp : s.framePending = false)
    (hq : s.inStreamOrder b = true) {o : Outcome} (ho : rxByte b now s.takeByte = o) {k : RxClass}
    (hk : (gapCheck now s.takeByte).rxClass b = k) :
    exec (.rxByte b now) s = o ∧ exec (k.toInstr b now) s = o := by
  have hbyte : exec (.rxByte b now) s = o := (feedByte_inStreamOrder hp hq _).trans ho
  exact ⟨hbyte, (exec_rxClass_of_applies hk).trans hbyte⟩

/-- In IDLE the class of a byte is its value's (R143 to R145). -/
theorem rxClass_of_idle {s : State} (hst : s.rxState = .idle) (b : Byte) (now : Time) :
    (gapCheck now s.takeByte).rxClass b =
      if b = s.cfg.startMarker then .start else if b = s.cfg.resyncMarker then .resync else .noise := by
  rw [gapCheck_of_no_timeout (s := s.takeByte) (interByteTimeout_of_idle hst)]
  exact rxClass_idle (s := { s.takeByte with rxLastTime := now }) hst b

/-- In IDLE a byte that is neither marker is dropped (R145). -/
theorem rxByte_noise {s : State} (hp : s.framePending = false) (hst : s.rxState = .idle) {b : Byte}
    (hstart : b ≠ s.cfg.startMarker) (hresync : b ≠ s.cfg.resyncMarker) (now : Time) :
    rxByte b now s = .next (dropNoise b { s with rxLastTime := now }) := by
  have hclass : State.rxClass { s with rxLastTime := now } b = .noise :=
    (rxClass_idle hst _).trans ((if_neg hstart).trans (if_neg hresync))
  rw [rxByte_eq_case _ now hp, gapCheck_of_no_timeout (interByteTimeout_of_idle hst), hclass]

/-- Settles O10: the byte is the start row's, and index 0 is the one byte written. -/
theorem startMarkerOpensAFrame : Obligations.StartMarkerOpensAFrame := by
  intro now s hp hst hw hq
  obtain ⟨hbyte, hrow⟩ := exec_rxByte_inStreamOrder hp hq (rxByte_startMarker (s := s.takeByte) hp hst now)
    ((rxClass_of_idle hst _ now).trans (if_pos rfl))
  exact ⟨_, hbyte, hrow, rfl, Memory.read_write_same (Memory.wf_rising hw) 0 _,
    fun i hi => Memory.read_write_other s.rxBuf _ hi⟩

/-- Settles O12: the byte is the noise row's. -/
theorem otherFirstByteIsDiscarded : Obligations.OtherFirstByteIsDiscarded := by
  intro b now s hp hst hstart hresync hq
  exact exec_rxByte_inStreamOrder hp hq (rxByte_noise (s := s.takeByte) hp hst hstart hresync now)
    ((rxClass_of_idle hst b now).trans ((if_neg hstart).trans (if_neg hresync)))

/-! ## A byte inside a frame (R146) -/

/-- Inside a frame, within the inter-byte timeout, a byte fed in stream order is accumulated, by RX_BYTE and by RX.DATA. -/
theorem exec_rxByte_of_accum {s : State} (hp : s.framePending = false) (hst : s.rxState = .accum) {now : Time}
    (htime : (elapsed now s.rxLastTime).toNat ≤ s.cfg.tInterbyte.toNat) {b : Byte} (hq : s.inStreamOrder b = true) :
    exec (.rxByte b now) s = accumulate b { s.takeByte with rxLastTime := now } ∧
      exec (.rxData b now) s = accumulate b { s.takeByte with rxLastTime := now } := by
  have hclass : (gapCheck now s.takeByte).rxClass b = .data := by
    rw [gapCheck_of_accum (s := s.takeByte) hst htime, rxClass_eq_data_iff]
    exact hst
  exact exec_rxByte_inStreamOrder hp hq (rxByte_of_accum (s := s.takeByte) hp hst htime b) hclass

/-- Settles O11: in IDLE the byte is the resync row's, and what it resets stays reset; in ACCUM it is accumulated, which
raises no event. -/
theorem resyncMarkerResynchronizes : Obligations.ResyncMarkerResynchronizes := by
  intro now s hp hmarkers hq
  refine ⟨fun hst => ?_, fun h hst htime => ?_⟩
  · obtain ⟨hbyte, hrow⟩ := exec_rxByte_inStreamOrder hp hq (rxByte_resyncMarker (s := s.takeByte) hp hst hmarkers now)
      ((rxClass_of_idle hst _ now).trans ((if_neg hmarkers.symm).trans (if_pos rfl)))
    refine ⟨_, hbyte, hrow, ?_, fun h => ⟨hst, h.idleIff.1 hst⟩, fun again hq' => ?_⟩
    · simp [State.resync, State.takeByte, hp]
    · exact (feedByte_inStreamOrder rfl hq' _).trans (rxByte_resyncMarker
        (s := (State.resync { s.takeByte with rxLastTime := now } .marker).takeByte) rfl hst hmarkers again)
  · obtain ⟨hbyte, hrow⟩ := exec_rxByte_of_accum hp hst htime hq
    have hacc := accumulate_of_lt (s := { s.takeByte with rxLastTime := now }) h.rxCount_lt_cap s.cfg.resyncMarker
    have hevents := accumulate_evOut hacc
    exact ⟨_, hbyte.trans hacc, hrow.trans hacc, hevents⟩

end Sys2Proof.Machine
end

section
/-! A byte inside a frame (R146 to R150): where it is stored, and what the length guard and the completion make of the
frame then. -/

namespace Sys2Proof.Machine

/-! ## The byte is stored -/

/-- `buf` is `old` with the byte `b` at index `i`. -/
structure StoredAt (old buf : Memory) (i : Nat) (b : Byte) : Prop where
  same : buf.read i = b
  other : ∀ j, j ≠ i → buf.read j = old.read j

theorem Memory.storedAt_write {m : Memory} (hw : m.wf = true) (i : Nat) (b : Byte) : StoredAt m (m.write i b) i b where
  same := Memory.read_write_same (Memory.wf_rising hw) i b
  other _ hj := Memory.read_write_other m b hj

/-- The bytes taken so far, as they stand in the buffer. -/
theorem holdsBytes_slice {s : State} (hw : s.rxBuf.wf = true) :
    HoldsBytes s.rxCount s.rxBuf (s.rxBuf.slice 0 s.rxCount) where
  bufWf := hw
  count := (Memory.slice_length ..).symm
  slice := rfl

/-- Inside a frame, within the inter-byte timeout, RX_BYTE and RX.DATA store the byte behind those before it, and the
length guard and the completion come next (R146). -/
theorem exec_rxByte_stored {s : State} (hw : s.rxBuf.wf = true) (hp : s.framePending = false) (hst : s.rxState = .accum)
    {now : Time} (htime : (elapsed now s.rxLastTime).toNat ≤ s.cfg.tInterbyte.toNat) {b : Byte}
    (hq : s.inStreamOrder b = true) (hroom : (s.rxCount : Nat) < Config.cap) :
    ∃ (n : Count) (buf : Memory), (n : Nat) = s.rxCount + 1 ∧ HoldsBytes n buf (s.rxBuf.slice 0 s.rxCount ++ [b]) ∧
      StoredAt s.rxBuf buf s.rxCount b ∧ ∀ t, afterAppend { s with
        rxBuf := buf
        rxCount := n
        rxLastTime := now
        rxQueue := s.rxQueue.tail } = t → exec (.rxByte b now) s = .next t ∧ exec (.rxData b now) s = .next t := by
  refine ⟨_, _, rfl, (holdsBytes_slice hw).append hroom b, Memory.storedAt_write hw s.rxCount b, ?_⟩
  rintro t rfl
  obtain ⟨hbyte, hdata⟩ := exec_rxByte_of_accum hp hst htime hq
  have hacc := accumulate_of_lt (s := { s.takeByte with rxLastTime := now }) hroom b
  exact ⟨hbyte.trans hacc, hdata.trans hacc⟩

/-! ## One more byte, and the length guard (R146, R148) -/

theorem afterAppend_of_partial {s : State} (hguard : (s.rxCount : Nat) = 6 → frameTotal (s.rxBuf.read 5) ≤ Config.cap)
    (hmore : 7 ≤ (s.rxCount : Nat) → (s.rxCount : Nat) ≠ frameTotal (s.rxBuf.read 5)) : afterAppend s = s := by
  rcases afterAppend_cases s with ⟨h6, hover, -⟩ | ⟨h7, htotal, -⟩ | ⟨-, -, e⟩
  · exact absurd (hguard h6) (Nat.not_le.2 hover)
  · exact absurd htotal (hmore h7)
  · exact e

theorem afterAppend_of_oversize {s : State} (h6 : (s.rxCount : Nat) = 6)
    (hover : Config.cap < frameTotal (s.rxBuf.read 5)) :
    afterAppend s = (s.diag (.oversize (s.rxBuf.read 5))).receiverReset := by
  rw [afterAppend, if_pos ⟨h6, hover⟩]

/-- "With `CAP = 257` the guard fires exactly for length bytes 251 to 255" (R148). -/
theorem cap_lt_frameTotal_iff (b : Byte) : Config.cap < frameTotal b ↔ 250 < b.toNat := by
  simp only [Config.cap, frameTotal]
  omega

/-- Settles O13: the length byte, once stored, is not written again, so the premises speak of the new buffer too. -/
theorem dataByteIsAppended : Obligations.DataByteIsAppended := by
  intro b now s h hp hst htime hq hlen hmore
  have hroom := h.rxCount_lt_cap
  obtain ⟨n, buf, hn, -, hbuf, hexec⟩ := exec_rxByte_stored h.rxBufWf hp hst htime hq hroom
  have hguard (h6 : (n : Nat) = 6) : frameTotal (buf.read 5) ≤ Config.cap := by
    have h5 : (s.rxCount : Nat) = 5 := by omega
    have hread : buf.read 5 = b := h5 ▸ hbuf.same
    rw [hread, ← Nat.not_lt, cap_lt_frameTotal_iff, Nat.not_lt]
    exact hlen h5
  have hnotlast (h7 : 7 ≤ (n : Nat)) : (n : Nat) ≠ frameTotal (buf.read 5) := by
    rw [hbuf.other 5 (by omega), frameTotal]
    omega
  obtain ⟨hbyte, hdata⟩ := hexec _ (afterAppend_of_partial hguard hnotlast)
  exact ⟨hroom, _, hbyte, hdata, rfl, hn, hbuf.same, hbuf.other⟩

/-- Settles O14: the guard looks at the byte just stored. -/
theorem oversizeLengthIsDiscarded : Obligations.OversizeLengthIsDiscarded := by
  intro b now s hw hp hst htime h5 hq
  obtain ⟨n, buf, hn, -, hbuf, hexec⟩ := exec_rxByte_stored hw hp hst htime hq (h5 ▸ by decide)
  rw [h5] at hn hbuf
  obtain rfl : n = 6 := Fin.ext hn
  have hread := hbuf.same
  have hguard : Config.cap < frameTotal (buf.read 5) ↔ 250 < b.toNat := by rw [hread, cap_lt_frameTotal_iff]
  by_cases hb : 250 < b.toNat
  · obtain ⟨hbyte, hdata⟩ := hexec _ (afterAppend_of_oversize rfl (hguard.2 hb))
    refine ⟨_, hbyte, hdata, fun _ => ?_, fun hle => absurd hb (Nat.not_lt.2 hle), hread, hbuf.other⟩
    rw [← hread]
    rfl
  · have h6 : ¬ 7 ≤ ((6 : Count) : Nat) := by decide
    obtain ⟨hbyte, hdata⟩ := hexec _ (afterAppend_of_partial (fun _ => Nat.not_lt.1 (hb ∘ hguard.1)) (absurd · h6))
    exact ⟨_, hbyte, hdata, fun hgt => absurd hgt hb, fun _ => rfl, hread, hbuf.other⟩

/-! ## The last byte (R149, R150) -/

/-- A whole frame whose last byte does not complete its sum is discarded (R149). -/
theorem completeFrame_of_bad_sum {s : State} {done : Bytes} {b : Byte} (h : HoldsBytes s.rxCount s.rxBuf (done ++ [b]))
    (hsum : byteSum (done ++ [b]) % 256 ≠ 0) : cksum done ≠ b ∧ completeFrame s = { s with
      rxState := .idle
      rxCount := 0
      diagOut := s.diagOut ++ [.cksum (cksum done) b] } := by
  have hcount : (s.rxCount : Nat) = done.length + 1 := h.count.trans (by simp)
  have hdone : s.rxBuf.slice 0 (s.rxCount - 1) = done := by
    rw [← Memory.take_slice s.rxBuf 0 (Nat.sub_le s.rxCount 1), h.slice, hcount, Nat.add_sub_cancel, List.take_left]
  have hlast : s.rxBuf.read (s.rxCount - 1) = b := by
    rw [h.read (by simp; omega), hcount, Nat.add_sub_cancel, frameByte_append_right (Nat.le_refl _), Nat.sub_self]
    rfl
  have hck : cksum done ≠ b := fun hck => hsum (by simpa using (cksum_eq_iff done b).1 hck)
  rcases completeFrame_cases s with ⟨-, e⟩ | ⟨hgood, -⟩
  · exact ⟨hck, by rw [e, hdone, hlast]⟩
  · exact absurd (hdone ▸ hlast ▸ hgood) hck

/-- At the last byte the frame has the length its length byte declares, and it fits the buffer (R100, R146). -/
theorem legalLength_of_last {s : State} (h : s.Inv) (h6 : 6 ≤ (s.rxCount : Nat))
    (hlast : (s.rxCount : Nat) + 1 = frameTotal (s.rxBuf.read 5)) (b : Byte) :
    LegalLength (s.rxBuf.slice 0 s.rxCount ++ [b]) where
  atLeast := by simp; omega
  declared := by
    rw [frameByte_append_left (by simp; omega), frameByte_slice _ (by omega), ← hlast]
    simp
  fits := by
    have hroom := h.rxCount_lt_cap
    simp only [List.length_append, Memory.slice_length, List.length_singleton]
    omega

/-- The sum of a frame, split at its last byte as O15 and O16 take it. -/
theorem byteSum_append_singleton (done : Bytes) (b : Byte) :
    byteSum (done ++ [b]) = (done.map BitVec.toNat).sum + b.toNat := by
  rw [byteSum_append, byteSum_eq_sum done, byteSum_cons, byteSum_nil, Nat.add_zero]

/-- Settles O15: with the byte the frame has the length it declares, and its sum is not 0. -/
theorem badChecksumIsDiscarded : Obligations.BadChecksumIsDiscarded := by
  intro b now s h hp hst htime hq h6 hlast hsum
  have hlegal := legalLength_of_last h h6 hlast b
  obtain ⟨n, buf, -, hbytes, hbuf, hexec⟩ := exec_rxByte_stored h.rxBufWf hp hst htime hq h.rxCount_lt_cap
  rw [← byteSum_append_singleton] at hsum
  obtain ⟨hbyte, hdata⟩ := hexec _ ((afterAppend_of_whole hlegal hbytes).trans (completeFrame_of_bad_sum hbytes hsum).2)
  rw [← byteSum_eq_sum]
  exact ⟨_, _, hbyte, hdata, (cksum_eq_iff _ _).1 rfl, rfl, hbuf.same, hbuf.other⟩

/-- Settles O16: VERIFY accepts the whole frame, and its response flag is the top bit of its byte 3. -/
theorem validFrameIsLatched : Obligations.ValidFrameIsLatched := by
  intro b now s h hp hst htime hq h6 hlast hsum
  have hlegal := legalLength_of_last h h6 hlast b
  obtain ⟨n, buf, hn, hbytes, hbuf, hexec⟩ := exec_rxByte_stored h.rxBufWf hp hst htime hq h.rxCount_lt_cap
  rw [← byteSum_append_singleton] at hsum
  have hverify := (verifyFrame_iff _).2 ⟨hlegal.atLeast, hlegal.declared, hsum⟩
  obtain ⟨hbyte, hdata⟩ := hexec _ ((afterAppend_of_whole hlegal hbytes).trans (completeFrame_of_verified hbytes hverify))
  have hflag : frameByte (s.rxBuf.slice 0 s.rxCount ++ [b]) 3 = s.rxBuf.read 3 := by
    rw [frameByte_append_left (by simp; omega), frameByte_slice _ (by omega)]
  refine ⟨_, hbyte, hdata, ?_, hn, ?_, fun i hi => ?_, hbuf.same, hbuf.other⟩
  · rw [hflag, awaitingAfterFrame, BitVec.msb_eq_getLsbD_last]
  · exact hbytes.count ▸ Memory.slice_store (Memory.wf_rising h.pendBufWf) 0 _
  · exact Memory.read_store_outside s.pendBuf _ (.inr (by rw [Nat.zero_add, ← hbytes.count]; exact hi))

end Sys2Proof.Machine
end

section
/-! Drains (R153, R155) and whole frames in the transport (R157): what a drain takes, and what becomes of an encoded frame
that arrives as it was built or with one byte changed. -/

namespace Sys2Proof.Machine

/-! ## The loop (R153) and the release (R155) -/

/-- Settles O17: the oldest waiting byte is in stream order, so RX_BYTE of it is the loop's own step. -/
theorem drainIsALoopOfRxByte : Obligations.DrainIsALoopOfRxByte := by
  intro now later s
  refine ⟨fun hp => rxDrain_pending hp _, fun hq => rxDrain_empty hq _, fun b waiting u hp hq hbyte => ?_⟩
  have hstep : rxByte b now { s with rxQueue := waiting } = .next u := by
    have htaken := (exec_rxByte_next hbyte).2
    rwa [State.takeByte, hq] at htaken
  exact (rxDrain_cons hp hq now later).trans (congrArg (andThen · (rxDrain later)) hstep)

/-- A drain may be cut in two anywhere in its times (R153). -/
theorem rxDrain_append (times more : List Time) (s : State) :
    rxDrain (times ++ more) s = andThen (rxDrain times s) (rxDrain more) := by
  induction times generalizing s with
  | nil => rfl
  | cons now later ih =>
    cases hp : s.framePending with
    | true => rw [rxDrain_pending hp, rxDrain_pending hp, andThen_next, rxDrain_pending hp]
    | false =>
      cases hq : s.rxQueue with
      | nil => rw [rxDrain_empty hq, rxDrain_empty hq, andThen_next, rxDrain_empty hq]
      | cons b waiting =>
        rw [List.cons_append, rxDrain_cons hp hq, rxDrain_cons hp hq]
        cases rxByte b now { s with rxQueue := waiting } with
        | next u => exact ih u
        | fault _ | refused _ => rfl

/-- Under the invariant a drain answers a next state, however few times it is given: with more of them it would complete
(R146, R153). -/
theorem rxDrain_answers {s : State} (h : s.Inv) (times : List Time) : ∃ t, rxDrain times s = .next t := by
  obtain ⟨v, hv, -⟩ := rxDrain_completes (times := times ++ List.replicate s.rxQueue.length 0) h (by simp)
  rw [rxDrain_append, andThen_eq_next] at hv
  obtain ⟨t, ht, -⟩ := hv
  exact ⟨t, ht⟩

/-- A drain takes bytes from the front of the transport and puts none there. -/
theorem rxDrain_rxQueue_suffix {times : List Time} {s t : State} (h : rxDrain times s = .next t) :
    t.rxQueue <:+ s.rxQueue := by
  refine rxDrain_induct (P := fun u => u.rxQueue <:+ s.rxQueue) (fun u b rest now v hu _ hq hb => ?_)
    (List.suffix_refl _) h
  have hrest : v.rxQueue = rest := (rxByte_receiverFrame hb).rxQueue
  rw [hq] at hu
  exact hrest ▸ (List.suffix_cons b rest).trans hu

/-- Settles O18: every byte of a drain is taken, and a time for each is enough to take them all. -/
theorem drainTakesEverythingAvailable : Obligations.DrainTakesEverythingAvailable := by
  intro times s h
  obtain ⟨t, ht⟩ := rxDrain_answers h times
  refine ⟨t, ht, rxDrain_rxQueue_suffix ht, fun hlen => ?_⟩
  obtain ⟨u, hu, hend⟩ := rxDrain_completes h hlen
  obtain rfl : t = u := Host.Outcome.next.inj (ht.symm.trans hu)
  exact hend

/-- Settles O19: RX_RELEASE writes the flag only. -/
theorem releaseClearsFramePending : Obligations.ReleaseClearsFramePending := fun _ => rfl

/-! ## No instruction faults (R146) -/

theorem rxByte_ne_fault {s : State} (h : s.Inv) (b : Byte) (now : Time) (r : Fault) : rxByte b now s ≠ .fault r := by
  cases hp : s.framePending with
  | true => simp [rxByte, hp]
  | false =>
    obtain ⟨t, ht⟩ := rxByte_completes h hp b now
    simp [ht]

theorem rxDrain_ne_fault {s : State} (h : s.Inv) (times : List Time) (r : Fault) : rxDrain times s ≠ .fault r := by
  obtain ⟨t, ht⟩ := rxDrain_answers h times
  simp [ht]

theorem receiveMessage_ne_fault {s : State} (h : s.Inv) (message : Bytes) (now : Time) (r : Fault) :
    receiveMessage message now s ≠ .fault r :=
  rxDrain_ne_fault (keptByActions_inv.queue s _ h) _ r

theorem feedByte_ne_fault {b : Byte} {feed : State → Outcome} {s : State} {r : Fault}
    (h : feed s.takeByte ≠ .fault r) : feedByte b feed s ≠ .fault r := by
  rcases feedByte_cases b feed s with ⟨-, e⟩ | ⟨-, -, e⟩ | ⟨-, -, e⟩ <;> rw [e]
  · nofun
  · nofun
  · exact h

theorem exec_rxByte_ne_fault {s : State} (h : s.Inv) (b : Byte) (now : Time) (r : Fault) :
    exec (.rxByte b now) s ≠ .fault r :=
  feedByte_ne_fault (rxByte_ne_fault (keptByActions_inv.queue s _ h) b now r)

theorem exec_rxClass_ne_fault {s : State} (h : s.Inv) (k : RxClass) (b : Byte) (now : Time) (r : Fault) :
    exec (k.toInstr b now) s ≠ .fault r := by
  rw [exec_rxClass_eq_feedByte]
  refine feedByte_ne_fault ?_
  split
  · exact rxByte_ne_fault (keptByActions_inv.queue s _ h) b now r
  · nofun

theorem tick_ne_fault {s : State} (h : s.Inv) (drainTimes : List Time) (pollTime : Time) (stepC stepD : List ClientOp)
    (r : Fault) : tick drainTimes pollTime stepC stepD s ≠ .fault r := by
  obtain ⟨u, hu⟩ := rxDrain_answers h drainTimes
  simp [tick, hu]

/-- Settles O59: only a received byte can fault, and under the invariant there is room for it. -/
theorem noInstructionOverrunsTheBuffer : Obligations.NoInstructionOverrunsTheBuffer := by
  intro i s r h
  cases i with
  | rxByte b now => exact exec_rxByte_ne_fault h b now r
  | rxStart b now => exact exec_rxClass_ne_fault h .start b now r
  | rxResync b now => exact exec_rxClass_ne_fault h .resync b now r
  | rxNoise b now => exact exec_rxClass_ne_fault h .noise b now r
  | rxData b now => exact exec_rxClass_ne_fault h .data b now r
  | rxDrain times => exact rxDrain_ne_fault h times r
  | frameReq _ _ _ _ _ now | frameRsp _ _ _ _ _ now | resyncByte now => exact receiveMessage_ne_fault h _ now r
  | tick drainTimes pollTime stepC stepD => exact tick_ne_fault h drainTimes pollTime stepC stepD r
  | encode counter command payload =>
    obtain ⟨answer, hanswer⟩ := execEncode_eq_result counter command payload s
    exact fun hfault => by cases hanswer.symm.trans hfault
  | _ =>
    -- the others answer a next state, but for RESYNC, which is refused
    exact fun hfault => by cases hfault

/-! ## Encoded frames (R157) -/

/-- The frame that ENCODE answers with is the one `encodeFrame` builds (R123). -/
theorem encodeFrame_of_exec {counter : Byte} {command : BitVec 16} {payload f : Bytes} {s : State}
    (h : exec (.encode counter command payload) s = .next { s with resOut := s.resOut ++ [.frame f] }) :
    encodeFrame s.cfg counter command payload = some f := by
  cases hframe : encodeFrame s.cfg counter command payload with
  | none =>
    have hout := congrArg State.resOut (Host.Outcome.next.inj ((exec_encode_of_none hframe).symm.trans h))
    simp [State.result] at hout
  | some g =>
    have hout := congrArg State.resOut (Host.Outcome.next.inj ((exec_encode_of_some hframe).symm.trans h))
    simpa [State.result] using hout

/-- What a receiver meets of an encoded frame: it opens with the start marker, is as long as it declares, passes VERIFY,
and byte 3 is the high byte of its command (R90, R101). -/
structure Encoded (marker : Byte) (command : BitVec 16) (f : Bytes) : Prop where
  marker : f.head? = some marker
  legal : LegalLength f
  verified : verifyFrame f = true
  commandHigh : frameByte f 3 = highByte command

theorem encoded_of_encodeFrame {c : Config.Params} {counter : Byte} {command : BitVec 16} {payload f : Bytes}
    (h : encodeFrame c counter command payload = some f) : Encoded c.startMarker command f := by
  have hverify := verifyFrame_encodeFrame h
  obtain ⟨h7, hdeclared, -⟩ := (verifyFrame_iff f).1 hverify
  obtain ⟨hlen, hfit⟩ := encodeFrame_length h
  have hcap : f.length ≤ Config.cap := hlen.trans_le (Nat.add_le_add_right hfit 7)
  rw [encodeFrame_of_le c counter command hfit, Option.some.injEq] at h
  subst h
  exact ⟨rfl, ⟨h7, hdeclared, hcap⟩, hverify, rfl⟩

/-- The response flag is the top bit of the command's high byte (R92). -/
theorem highByte_msb (command : BitVec 16) : (highByte command).msb = command.getLsbD 15 := by
  simp [highByte, BitVec.msb_eq_getLsbD_last]

/-- An idle receiver has taken no byte of a frame (R23). -/
theorem State.Inv.rxCount_of_idle {s : State} (h : s.Inv) (hst : s.rxState = .idle) : s.rxCount = 0 :=
  Fin.ext (h.idleIff.1 hst)

/-- Settles O20: the drain takes the frame up to its last byte, which latches it; a pending frame ends the drain. -/
theorem encodedFrameIsReceivedWhole : Obligations.EncodedFrameIsReceivedWhole := by
  intro counter command payload f rest now later s h hp hst hencode hq hlen htimes
  have hf := encoded_of_encodeFrame (encodeFrame_of_exec hencode)
  obtain ⟨tail, rfl⟩ := List.head?_eq_some_iff.1 hf.marker
  obtain ⟨n, buf, hbytes, last, -, unused, e⟩ := rxDrain_frame h hp hst hf.legal hq (Nat.le_of_succ_le_succ hlen) htimes
  rw [completeFrame_of_verified hbytes hf.verified] at e
  have hend := e.trans (rxDrain_pending rfl unused)
  refine ⟨_, hend, ?_, hbytes.count ▸ Memory.slice_store (Memory.wf_rising h.pendBufWf) 0 _⟩
  simp [hst, h.rxCount_of_idle hst, hf.commandHigh, awaitingAfterFrame, highByte_msb]

/-- A change at another offset than the marker's and the length byte's leaves the frame one of legal length (R157). -/
theorem LegalLength.set {f : Bytes} (hf : LegalLength f) {i : Nat} (hi : i ≠ 5) (v : Byte) : LegalLength (f.set i v) where
  atLeast := by simpa using hf.atLeast
  declared := by
    have hbyte : frameByte (f.set i v) 5 = frameByte f 5 := by
      simp [frameByte, List.getD_eq_getElem?_getD, List.getElem?_set_ne hi]
    rw [hbyte, List.length_set]
    exact hf.declared
  fits := by simpa using hf.fits

/-- A whole frame that VERIFY rejects is discarded, though its length is legal (R149). -/
theorem completeFrame_of_rejected {s : State} {f : Bytes} (h : HoldsBytes s.rxCount s.rxBuf f) (hlegal : LegalLength f)
    (hf : verifyFrame f = false) : ∃ expected got, expected ≠ got ∧ completeFrame s = { s with
      rxState := .idle
      rxCount := 0
      diagOut := s.diagOut ++ [.cksum expected got] } := by
  have hsum : byteSum f % 256 ≠ 0 := fun hsum =>
    Bool.eq_false_iff.1 hf ((verifyFrame_iff f).2 ⟨hlegal.atLeast, hlegal.declared, hsum⟩)
  rcases List.eq_nil_or_concat' f with rfl | ⟨done, b, rfl⟩
  · exact absurd hlegal.atLeast (by decide)
  · obtain ⟨hne, e⟩ := completeFrame_of_bad_sum h hsum
    exact ⟨_, _, hne, e⟩

/-- Settles O21: the changed frame has the length it declares, so it is whole at its last byte, and there VERIFY would
reject it. -/
theorem changedFrameIsDiscarded : Obligations.ChangedFrameIsDiscarded := by
  intro counter command payload f i v time later s h hp hst hencode hi0 hi5 hi hv hq hlen htimes
  have hf := encoded_of_encodeFrame (encodeFrame_of_exec hencode)
  have hreject := verifyFrame_set hf.verified hi hv
  have hlegal := hf.legal.set hi5 v
  obtain ⟨tail, rfl⟩ := List.head?_eq_some_iff.1 hf.marker
  obtain ⟨j, rfl⟩ := Nat.exists_eq_succ_of_ne_zero hi0
  rw [List.set_cons_succ] at hq hreject hlegal
  obtain ⟨n, buf, hbytes, last, -, unused, e⟩ := rxDrain_frame (after := []) h hp hst hlegal (by rw [hq, List.append_nil])
    (by simpa using hlen) htimes
  obtain ⟨expected, got, hne, hdiscard⟩ := completeFrame_of_rejected
    (s := { s with rxState := .accum, rxCount := n, rxBuf := buf, rxLastTime := last, rxQueue := [] }) hbytes hlegal hreject
  rw [hdiscard] at e
  have hend := e.trans (rxDrain_empty rfl unused)
  refine ⟨_, expected, got, hend, ?_, hne⟩
  simp [hst, h.rxCount_of_idle hst]

end Sys2Proof.Machine
end

section
/-! The transmitter (spec/42_transmitter.md): what SEND and SEND_REPLY write and record (R171 to R177), how silence escalates
to the resynchronization (R180, R181), and what a resynchronization leaves alone (R190 to R192). -/

namespace Sys2Proof.Machine

/-! ## Frames written and recorded (R171, R176) -/

/-- The record of a transmission is its frame; behind it the buffer keeps what it held (R36). -/
theorem transmit_records {f : Bytes} (hf : f.length ≤ Config.cap) {s : State} (hw : s.lastBuf.wf = true) (now : Time) :
    ((s.transmit f now).lastLen : Nat) = f.length ∧
      (s.transmit f now).lastBuf.slice 0 (s.transmit f now).lastLen = f ∧
      ∀ i, f.length ≤ i → (s.transmit f now).lastBuf.read i = s.lastBuf.read i :=
  ⟨Count.ofNat_val hf, lastFrame_transmit hf hw now,
    fun _ hi => Memory.read_store_outside s.lastBuf f (.inr ((Nat.zero_add _).trans_le hi))⟩

/-- Settles O22: a payload that fits is encoded with the counter already incremented; posted or not, the transmission
records the frame. -/
theorem sendTransmitsAndRecords : Obligations.SendTransmitsAndRecords := by
  intro command payload posted now s hfit hw
  rcases send_cases command payload posted now s with ⟨hlong, -⟩ | ⟨f, hf, hsend⟩
  · exact absurd hfit (Nat.not_le_of_lt hlong)
  · obtain ⟨hlen, hframe, hrest⟩ := transmit_records (s := { s with txCounter := s.txCounter + 1 })
      (encodeFrame_length_le_cap hf) hw now
    refine ⟨f, _, exec_encode_of_some hf, congrArg Host.Outcome.next hsend, ?_⟩
    cases posted with
    | false => exact ⟨rfl, hlen, hframe, hrest⟩
    | true => exact ⟨rfl, hlen, hframe, hrest⟩

/-- Settles O24: as for SEND, with the counter given. -/
theorem replyEchoesThePeersCounter : Obligations.ReplyEchoesThePeersCounter := by
  intro counter command payload now s hfit hw
  rcases sendReply_cases counter command payload now s with ⟨hlong, -⟩ | ⟨f, hf, hreply⟩
  · exact absurd hfit (Nat.not_le_of_lt hlong)
  · obtain ⟨hlen, hframe, hrest⟩ := transmit_records (encodeFrame_length_le_cap hf) hw now
    refine ⟨f, _, exec_encode_of_some hf, congrArg Host.Outcome.next hreply, ?_⟩
    cases s.cfg.replyAwaits with
    | false => exact ⟨rfl, hlen, hframe, hrest⟩
    | true => exact ⟨rfl, hlen, hframe, hrest⟩

/-! ## Payloads that do not fit (R172, R177) -/

/-- Settles O23: no frame is encoded from more than MAX_PAYLOAD bytes, so SEND overflows. -/
theorem sendOverflowFaults : Obligations.SendOverflowFaults := by
  intro command payload posted now s hlong
  rcases send_cases command payload posted now s with ⟨-, hsend⟩ | ⟨f, hf, -⟩
  · exact congrArg Host.Outcome.next hsend
  · exact absurd (encodeFrame_length hf).2 (Nat.not_le_of_lt hlong)

/-- Settles O25: no frame is encoded from more than MAX_PAYLOAD bytes, so SEND_REPLY overflows. -/
theorem replyOverflowFaults : Obligations.ReplyOverflowFaults := by
  intro counter command payload now s hlong
  rcases sendReply_cases counter command payload now s with ⟨-, hreply⟩ | ⟨f, hf, -⟩
  · exact congrArg Host.Outcome.next hreply
  · exact absurd (encodeFrame_length hf).2 (Nat.not_le_of_lt hlong)

/-! ## One poll (R180) -/

theorem exec_txPoll_of_no_timeout {now : Time} {s : State} (h : s.responseTimeout now = false) :
    exec (.txPoll now) s = .next s := by
  rcases txPoll_cases now s with ⟨-, e⟩ | ⟨htimeout, -⟩ | ⟨htimeout, -⟩
  · exact congrArg Host.Outcome.next e
  · exact absurd htimeout (Bool.eq_false_iff.1 h)
  · exact absurd htimeout (Bool.eq_false_iff.1 h)

theorem exec_txPoll_of_not_awaiting {s : State} (h : s.awaiting = false) (now : Time) : exec (.txPoll now) s = .next s :=
  exec_txPoll_of_no_timeout (Bool.eq_false_iff.2 fun htimeout =>
    Bool.eq_false_iff.1 h ((responseTimeout_iff now s).1 htimeout).1)

/-- A poll that finds the response timeout exceeded and no retry left resynchronizes (R181). -/
theorem exec_txPoll_of_exhausted {now : Time} {s : State} (htimeout : s.responseTimeout now = true)
    (hretry : s.cfg.maxRetries.toNat ≤ s.retryCount.toNat) :
    exec (.txPoll now) s = .next (s.resync .retryExhausted) := by
  rcases txPoll_cases now s with ⟨hno, -⟩ | ⟨-, hleft, -⟩ | ⟨-, -, e⟩
  · exact absurd htimeout (Bool.eq_false_iff.1 hno)
  · exact absurd hretry (Nat.not_le_of_lt hleft)
  · exact congrArg Host.Outcome.next e

/-- Settles O26: the response timeout is exceeded exactly where the last two clauses say, and the retry count tells these
apart. -/
theorem pollRetransmitsThenResynchronizes : Obligations.PollRetransmitsThenResynchronizes := by
  intro now s
  refine ⟨fun ha => exec_txPoll_of_not_awaiting ha now, fun hshort => exec_txPoll_of_no_timeout ?_,
    fun ha hlate hretry => exec_txPoll_of_retry_left ((responseTimeout_iff now s).2 ⟨ha, hlate⟩) hretry,
    fun ha hlate hretry => exec_txPoll_of_exhausted ((responseTimeout_iff now s).2 ⟨ha, hlate⟩) hretry⟩
  exact Bool.eq_false_iff.2 fun htimeout => absurd hshort (Nat.not_le_of_lt ((responseTimeout_iff now s).1 htimeout).2)

/-! ## Silence (R181) -/

theorem pausesBeyond_cons (limit t0 t : Time) (later : List Time) : pausesBeyond limit t0 (t :: later) = true ↔
    limit.toNat < (elapsed t t0).toNat ∧ pausesBeyond limit t later = true := by
  simp [pausesBeyond]

/-- On an outstanding request with `left` retries left, so many timeouts write the recorded frame, and the one after them
resynchronizes. -/
theorem execAll_txPoll_of_silence {left : Nat} {times : List Time} {s : State} (ha : s.awaiting = true)
    (hleft : s.retryCount.toNat + left = s.cfg.maxRetries.toNat) (hlen : times.length = left + 1)
    (hpauses : pausesBeyond s.cfg.tResponse s.lastTxTime times = true) :
    ∃ u : State, execAll (times.map Instr.txPoll) s = .next (u.resync .retryExhausted) ∧
      u.txOut = s.txOut ++ List.replicate left s.lastFrame ∧ u.evOut = s.evOut ∧ u.cfg = s.cfg := by
  induction left generalizing s times with
  | zero =>
    obtain ⟨now, rfl⟩ := List.length_eq_one_iff.1 hlen
    have htimeout := (responseTimeout_iff now s).2 ⟨ha, ((pausesBeyond_cons ..).1 hpauses).1⟩
    rw [List.map_singleton, execAll_cons, exec_txPoll_of_exhausted htimeout hleft.ge]
    exact ⟨s, rfl, (List.append_nil _).symm, rfl, rfl⟩
  | succ left ih =>
    obtain ⟨now, later, rfl⟩ := List.exists_cons_of_length_eq_add_one hlen
    obtain ⟨hlate, hlater⟩ := (pausesBeyond_cons ..).1 hpauses
    have hretry : s.retryCount.toNat < s.cfg.maxRetries.toNat := by omega
    have hleft' : (retransmit now s).retryCount.toNat + left = s.cfg.maxRetries.toNat := by
      rw [retransmit_retryCount_toNat hretry]
      omega
    obtain ⟨u, hrun, htx, hev, hcfg⟩ := ih (s := retransmit now s) ha hleft' (Nat.succ.inj hlen) hlater
    refine ⟨u, ?_, ?_, hev, hcfg⟩
    · rw [List.map_cons, execAll_cons, exec_txPoll_of_retry_left ((responseTimeout_iff now s).2 ⟨ha, hlate⟩) hretry]
      exact hrun
    · rw [htx, retransmit_txOut, List.append_assoc]
      rfl

/-- Settles O27: with its retry count at 0 the request has MAX_RETRIES retries left; after the resynchronization nothing is
awaited, so no poll finds a timeout. -/
theorem silenceEscalatesExactlyOnce : Obligations.SilenceEscalatesExactlyOnce := by
  intro times s ha hretry hlen hpauses
  have hleft : s.retryCount.toNat + s.cfg.maxRetries.toNat = s.cfg.maxRetries.toNat := by simp [hretry]
  obtain ⟨u, hrun, htx, hev, hcfg⟩ := execAll_txPoll_of_silence ha hleft hlen hpauses
  exact ⟨_, hrun, htx, congrArg (· ++ _) hev, congrArg Config.Params.seqSentinel hcfg, rfl, rfl,
    exec_txPoll_of_not_awaiting rfl⟩

/-! ## Resynchronization (R190 to R192) -/

/-- Settles O29: the client's RESYNC is refused in every state. -/
theorem clientSelectedResyncIsRefused : Obligations.ClientSelectedResyncIsRefused := fun _ _ => rfl

theorem gapCheck_evOut (now : Time) (s : State) : (gapCheck now s).evOut = s.evOut := by rw [gapCheck_eq]

/-- The one event RX_BYTE raises is the resynchronization by the marker (R144). -/
theorem rxByte_eq_resync_of_event {b : Byte} {now : Time} {s t : State} (h : rxByte b now s = .next t)
    (hevent : t.evOut ≠ s.evOut) : t = (gapCheck now s).resync .marker := by
  rw [← gapCheck_evOut now s] at hevent
  rcases rxByte_cases b now s with ⟨-, e⟩ | ⟨-, ⟨-, -, e⟩ | ⟨-, -, -, e⟩ | ⟨-, -, -, e⟩ | ⟨-, e⟩⟩ <;> rw [e] at h
  · cases h
  · cases h
    exact absurd rfl hevent
  · exact (Host.Outcome.next.inj h).symm
  · cases h
    exact absurd rfl hevent
  · exact absurd (accumulate_evOut h) hevent

/-- The one event TX_POLL raises is the resynchronization for exhausted retries (R181). -/
theorem txPoll_eq_resync_of_event {now : Time} {s : State} (hevent : (txPoll now s).evOut ≠ s.evOut) :
    txPoll now s = s.resync .retryExhausted := by
  rcases txPoll_cases now s with ⟨-, e⟩ | ⟨-, -, e⟩ | ⟨-, -, e⟩
  · exact absurd (congrArg State.evOut e) hevent
  · exact absurd (congrArg State.evOut e) hevent
  · exact e

/-- Settles O60: an event means that either trigger ended in `State.resync`, the marker's after the gap check, which touches
the receiver only. -/
theorem resynchronizationKeepsTheRest : Obligations.ResynchronizationKeepsTheRest := by
  intro i now s t hi h hevent
  rcases hi with rfl | rfl
  · have hbyte := (exec_rxByte_next h).2
    have hkeep := rxByte_receiverFrame hbyte
    obtain rfl := rxByte_eq_resync_of_event hbyte hevent
    exact ⟨congrArg Config.Params.seqSentinel (gapCheck_cfg now s.takeByte), rfl, rfl, rfl, rfl, rfl, rfl, rfl,
      gapCheck_rxBuf now s.takeByte, hkeep.reg, hkeep.batch, hkeep.batchValid, hkeep.fault, hkeep.txOut, nofun,
      .marker, congrArg (· ++ _) (gapCheck_evOut now s.takeByte)⟩
  · obtain rfl : txPoll now s = t := Host.Outcome.next.inj h
    rw [txPoll_eq_resync_of_event hevent]
    exact ⟨rfl, rfl, rfl, rfl, rfl, rfl, rfl, rfl, rfl, rfl, rfl, rfl, rfl, rfl, fun _ => rfl, .retryExhausted, rfl⟩

end Sys2Proof.Machine
end

section
/-! The parameter registry: its table (spec/43_registry.md R200 to R208). -/

namespace Sys2Proof.Machine

/-! ## The entry of an ID (R66) -/

/-- The lookup and the read at its index together are a search for the ID. -/
theorem entryOf_eq_find? (reg : List RegEntry) (id : ParamId) : entryOf reg id = reg.find? fun e => e.id = id := by
  induction reg with
  | nil => rfl
  | cons e rest ih =>
    by_cases hid : e.id = id
    · simp [entryOf, lookup, hid]
    · have hskip : entryOf (e :: rest) id = entryOf rest id := by
        simp only [entryOf, lookup, hid, if_false]
        cases lookup rest id <;> rfl
      rw [hskip, ih, List.find?_cons_of_neg (by simpa using hid)]

theorem entryOf_eq_some_iff {reg : List RegEntry} (hnodup : (reg.map RegEntry.id).Nodup) {id : ParamId} {e : RegEntry} :
    entryOf reg id = some e ↔ e ∈ reg ∧ e.id = id :=
  ⟨entryOf_mem, fun ⟨hmem, hid⟩ => entryOf_eq hnodup hmem hid⟩

/-! ## What each operation on the table does -/

/-- Settles O30: REG_CLEAR writes the table only. -/
theorem clearEmptiesTheRegistry : Obligations.ClearEmptiesTheRegistry := fun _ => rfl

theorem regDefine_of_known {id : ParamId} {s : State} (hknown : ∃ e ∈ s.reg, e.id = id) (tag size : Byte) :
    regDefine id tag size s = (s.diag (.regDup id)).result (.bool false) :=
  if_pos (lookup_isSome_iff.2 hknown)

theorem regDefine_of_new {id : ParamId} {s : State} (hnew : ∀ e ∈ s.reg, e.id ≠ id) (tag size : Byte) :
    regDefine id tag size s =
      if s.regN = s.cfg.regCap then (s.diag (.regFull id)).result (.bool false)
      else State.result { s with reg := s.reg ++ [⟨id, tag, size, false, []⟩] } (.bool true) :=
  if_neg (by simpa [lookup_isSome_iff] using hnew)

/-- Settles O31: the lookup is looked at before the room in the table. -/
theorem defineAddsOneUnvaluedEntry : Obligations.DefineAddsOneUnvaluedEntry := by
  intro id tag size s
  refine ⟨fun hknown => ?_, fun hnew hfull => ?_, fun hnew hroom => ?_⟩
  · exact congrArg Host.Outcome.next (regDefine_of_known hknown tag size)
  · exact congrArg Host.Outcome.next ((regDefine_of_new hnew tag size).trans (if_pos hfull))
  · exact ⟨_, congrArg Host.Outcome.next ((regDefine_of_new hnew tag size).trans (if_neg hroom)), rfl,
      _, rfl, rfl, rfl, rfl, rfl⟩

theorem regGet_of_some {id : ParamId} {s : State} {e : RegEntry} (he : entryOf s.reg id = some e) :
    regGet id s =
      if e.valued then s.result (.bytes e.value) else (s.diag (.regMiss id .unvalued)).result (.bytes []) := by
  rw [regGet, he]

theorem regGet_of_none {id : ParamId} {s : State} (he : entryOf s.reg id = none) :
    regGet id s = (s.diag (.regMiss id .notFound)).result (.bytes []) := by
  rw [regGet, he]

/-- Settles O32: with distinct IDs the entry of the ID is the one REG_GET reads. -/
theorem getReturnsTheValueOrNothing : Obligations.GetReturnsTheValueOrNothing := by
  intro id s hnodup
  refine ⟨fun e he hid hvalued => ?_, fun e he hid hvalued => ?_, fun hnew => ?_⟩
  · have hget := regGet_of_some (entryOf_eq hnodup he hid)
    exact congrArg Host.Outcome.next (hget.trans (if_pos hvalued))
  · have hget := regGet_of_some (entryOf_eq hnodup he hid)
    exact congrArg Host.Outcome.next (hget.trans (if_neg (Bool.eq_false_iff.1 hvalued)))
  · exact congrArg Host.Outcome.next (regGet_of_none (entryOf_none_iff.2 hnew))

theorem regInfo_of_some {id : ParamId} {s : State} {e : RegEntry} (he : entryOf s.reg id = some e) :
    regInfo id s = s.result (.info e.tag e.size e.valued) := by
  rw [regInfo, he]

theorem regInfo_of_none {id : ParamId} {s : State} (he : entryOf s.reg id = none) :
    regInfo id s = s.result .absent := by
  rw [regInfo, he]

theorem regAt_of_lt {k : Nat} {s : State} (h : k < s.reg.length) :
    regAt k s = s.result (.entry s.reg[k].id s.reg[k].tag s.reg[k].size s.reg[k].valued) := by
  rw [regAt, List.getElem?_eq_getElem h]

theorem regAt_of_length_le {k : Nat} {s : State} (h : s.reg.length ≤ k) : regAt k s = s.result .absent := by
  rw [regAt, List.getElem?_eq_none h]

/-- Settles O33: REG_INFO reads the entry of the ID, REG_AT the one at the position. -/
theorem infoAndAtReadTheTable : Obligations.InfoAndAtReadTheTable := by
  intro id k s hnodup
  refine ⟨fun e he hid => ?_, fun hnew => ?_, fun h => ?_, fun h => ?_⟩
  · exact congrArg Host.Outcome.next (regInfo_of_some (entryOf_eq hnodup he hid))
  · exact congrArg Host.Outcome.next (regInfo_of_none (entryOf_none_iff.2 hnew))
  · exact congrArg Host.Outcome.next (regAt_of_lt h)
  · exact congrArg Host.Outcome.next (regAt_of_length_le h)

/-! ## Noninterference (R200) -/

/-- Settles O57: each operation stays in the `RegistryFrame`; REG_CLEAR alone removes members, and it writes the table
only. -/
theorem registryOperationsStayInTheRegistry : Obligations.RegistryOperationsStayInTheRegistry := by
  intro i s hi
  cases i with
  | regClear => exact ⟨_, rfl, rfl⟩
  | regDefine id tag size => exact ⟨_, rfl, (regDefine_registryFrame id tag size s).eq⟩
  | regGet id => exact ⟨_, rfl, (regGet_answered id s).registryFrame.eq⟩
  | regQueue us => exact ⟨_, rfl, (regQueue_registryFrame us s).eq⟩
  | regApply us => exact ⟨_, rfl, (regApply_registryFrame us s).eq⟩
  | regFlush => exact ⟨_, rfl, (regFlush_registryFrame s).eq⟩
  | regParse block => exact ⟨_, rfl, (regParse_registryFrame block s).eq⟩
  | regInfo id => exact ⟨_, rfl, (regInfo_answered id s).registryFrame.eq⟩
  | regAt k => exact ⟨_, rfl, (regAt_answered k s).registryFrame.eq⟩
  | triple id v =>
    exact ⟨_, exec_triple id v s, ((applyTriple_registryFrame id v s).trans (result_registryFrame _ _)).eq⟩
  | _ => cases hi

end Sys2Proof.Machine
end

section
/-! The parameter registry: batches of updates, queued, coalesced and applied as a whole (spec/43_registry.md R211 to
R220). -/

namespace Sys2Proof.Machine

/-! ## Queueing and flushing (R211, R220) -/

/-- Settles O34: what was queued plays no part. -/
theorem queueReplacesTheBatch : Obligations.QueueReplacesTheBatch := fun _ _ _ => ⟨rfl, rfl⟩

/-- Settles O37: whether a batch is queued is all REG_FLUSH looks at. -/
theorem flushAppliesAndDropsTheBatch : Obligations.FlushAppliesAndDropsTheBatch := by
  intro s
  refine ⟨fun hnone => ?_, fun hqueued => ⟨_, rfl, ?_⟩⟩
  · exact congrArg Host.Outcome.next (if_neg (Bool.eq_false_iff.1 hnone))
  · exact congrArg Host.Outcome.next (if_pos hqueued)

/-! ## Coalescing (R213) -/

/-- Each ID once, where it occurs first. -/
theorem coalesce_ids (us : List Update) : (coalesce us).map Update.id = (us.map Update.id).eraseDups := by
  induction us using List.reverseRecOn with
  | nil => rfl
  | append_singleton us u ih =>
    rw [coalesce_append, coalesceInto_ids, ih, List.map_append, List.eraseDups_append, List.map_singleton,
      List.cons_removeAll]
    by_cases hmem : u.id ∈ us.map Update.id
    · rw [if_pos (List.mem_eraseDups.2 hmem), if_neg (by simpa using hmem), List.nil_removeAll, List.eraseDups_nil,
        List.append_nil]
    · rw [if_neg (mt List.mem_eraseDups.1 hmem), if_pos (by simpa using hmem), List.nil_removeAll, List.eraseDups_cons,
        List.filter_nil, List.eraseDups_nil]

theorem nodup_coalesce_ids (us : List Update) : ((coalesce us).map Update.id).Nodup := by
  induction us using List.reverseRecOn with
  | nil => exact List.nodup_nil
  | append_singleton us u ih =>
    rw [coalesce_append, coalesceInto_ids]
    split
    · exact ih
    · next hnew => exact List.nodup_append.2 ⟨ih, List.nodup_singleton _, by simpa using hnew⟩

/-- A coalesced request is the last one of its ID. -/
theorem getLast?_of_mem_coalesce {us : List Update} {u : Update} (h : u ∈ coalesce us) :
    (us.filter fun v => v.id = u.id).getLast? = some u := by
  induction us using List.reverseRecOn with
  | nil => cases h
  | append_singleton us last ih =>
    rw [coalesce_append, mem_coalesceInto (nodup_coalesce_ids us)] at h
    rcases h with rfl | ⟨hid, hmem⟩
    · simp
    · simp [ih hmem, Ne.symm hid]

/-- Settles O35: a request added to a coalesced list keeps the place of its ID, or comes last. -/
theorem coalesceKeepsFirstPlaceAndLastValue : Obligations.CoalesceKeepsFirstPlaceAndLastValue :=
  fun updates => ⟨coalesce_ids updates, fun _ => getLast?_of_mem_coalesce⟩

/-! ## Validation (R215) -/

/-- With distinct IDs a request is good if the table has its ID with its length. -/
theorem updateProblem_none_iff_mem {reg : List RegEntry} (hnodup : (reg.map RegEntry.id).Nodup) {u : Update} :
    updateProblem reg u = none ↔ ∃ e ∈ reg, e.id = u.id ∧ u.bytes.length = e.size.toNat := by
  simp only [updateProblem_none_iff, entryOf_eq_some_iff hnodup, and_assoc]

theorem updateProblem_of_unknown {reg : List RegEntry} {u : Update} (h : ∀ e ∈ reg, e.id ≠ u.id) :
    updateProblem reg u = some (.regUnknownId u.id) := by
  rw [updateProblem, entryOf_none_iff.2 h]

theorem updateProblem_of_size {reg : List RegEntry} {u : Update} {e : RegEntry} (he : entryOf reg u.id = some e)
    (hsize : u.bytes.length ≠ e.size.toNat) :
    updateProblem reg u = some (.regSize u.id u.bytes.length e.size) := by
  rw [updateProblem, he]
  exact if_pos hsize

/-- All that can be wrong with a request. -/
theorem updateProblem_some_cases {reg : List RegEntry} {u : Update} {d : Diag} (h : updateProblem reg u = some d) :
    ((∀ e ∈ reg, e.id ≠ u.id) ∧ d = .regUnknownId u.id) ∨
      ∃ e ∈ reg, e.id = u.id ∧ u.bytes.length ≠ e.size.toNat ∧ d = .regSize u.id u.bytes.length e.size := by
  cases he : entryOf reg u.id with
  | none =>
    have hnew := entryOf_none_iff.1 he
    rw [updateProblem_of_unknown hnew] at h
    exact .inl ⟨hnew, (Option.some.inj h).symm⟩
  | some e =>
    obtain ⟨hmem, hid⟩ := entryOf_mem he
    by_cases hsize : u.bytes.length = e.size.toNat
    · rw [updateProblem_none_iff.2 ⟨e, he, hsize⟩] at h
      cases h
    · rw [updateProblem_of_size he hsize] at h
      exact .inr ⟨e, hmem, hid, hsize, (Option.some.inj h).symm⟩

/-- The first bad request decides. -/
theorem batchProblem_of_first_bad {reg : List RegEntry} {before : List Update}
    (hgood : ∀ v ∈ before, updateProblem reg v = none) {u : Update} {d : Diag} (hbad : updateProblem reg u = some d)
    (after : List Update) : batchProblem reg (before ++ u :: after) = some d := by
  rw [batchProblem_append hgood, batchProblem, hbad]

/-! ## The application pass (R215) -/

/-- The entry after the requests for its ID among `us`, one after another. -/
def RegEntry.writtenBy (e : RegEntry) (us : List Update) : RegEntry :=
  us.foldl (fun e u => if e.id = u.id then e.setValue u.bytes else e) e

theorem RegEntry.writtenBy_cons (e : RegEntry) (u : Update) (us : List Update) :
    e.writtenBy (u :: us) = (if e.id = u.id then e.setValue u.bytes else e).writtenBy us := rfl

/-- The last request for the ID of an entry stands. -/
theorem RegEntry.writtenBy_eq_last (e : RegEntry) (us : List Update) : e.writtenBy us =
    (((us.filter fun u => u.id = e.id).getLast?).map fun u => e.setValue u.bytes).getD e := by
  induction us generalizing e with
  | nil => rfl
  | cons u us ih =>
    rw [writtenBy_cons, ih, List.filter_cons]
    by_cases hid : e.id = u.id
    · simp only [hid, if_true, RegEntry.setValue, decide_true, List.getLast?_cons, Option.map_some, Option.getD_some]
      cases (us.filter fun w => w.id = u.id).getLast? <;> rfl
    · simp only [hid, Ne.symm hid, if_false, decide_false, Bool.false_eq_true]

/-- With distinct IDs each entry is written by its own requests. -/
theorem assignAll_eq_map_writtenBy {reg : List RegEntry} (hnodup : (reg.map RegEntry.id).Nodup) (us : List Update) :
    assignAll reg us = reg.map (·.writtenBy us) := by
  induction us generalizing reg with
  | nil => exact (List.map_id' reg).symm
  | cons u us ih =>
    rw [assignAll_cons, ih (by rwa [assign_ids]), assign_eq hnodup, List.map_map]
    rfl

/-- With distinct IDs there is at most one request for an ID, so the first is the last. -/
theorem getLast?_filter_id_of_nodup {us : List Update} (hnodup : (us.map Update.id).Nodup) (id : ParamId) :
    (us.filter fun u => u.id = id).getLast? = us.find? fun u => u.id = id := by
  induction us with
  | nil => rfl
  | cons u us ih =>
    obtain ⟨hnew, hnodup⟩ := List.nodup_cons.1 hnodup
    by_cases hid : u.id = id
    · have hnone : (us.filter fun w => w.id = id) = [] := by
        rw [List.filter_eq_nil_iff]
        intro w hw hwid
        exact hnew (List.mem_map.2 ⟨w, hw, (of_decide_eq_true hwid).trans hid.symm⟩)
      simp [hid, hnone]
    · simpa [hid] using ih hnodup

theorem regApply_of_good {us : List Update} {s : State} (h : batchProblem s.reg (coalesce us) = none) :
    regApply us s = State.result { s with reg := assignAll s.reg (coalesce us) } (.ok (coalesce us)) := by
  rw [regApply, h]

theorem regApply_of_bad {us : List Update} {s : State} {d : Diag} (h : batchProblem s.reg (coalesce us) = some d) :
    regApply us s = (s.diag d).result .reject := by
  rw [regApply, h]

/-- Settles O36: the validation pass looks at the whole coalesced batch before the application pass, in which each entry
is written at most once, begins. -/
theorem applyIsAllOrNothing : Obligations.ApplyIsAllOrNothing := by
  intro updates s hnodup
  refine ⟨fun hgood => ?_, fun before after u hsplit hgood => ?_⟩
  · have hvalid : batchProblem s.reg (coalesce updates) = none :=
      batchProblem_none_iff.2 fun u hu => (updateProblem_none_iff_mem hnodup).2 (hgood u hu)
    refine congrArg Host.Outcome.next ((regApply_of_good hvalid).trans ?_)
    rw [assignAll_eq_map_writtenBy hnodup]
    unfold State.result
    congr 2
    refine List.map_congr_left fun e _ => ?_
    rw [e.writtenBy_eq_last, getLast?_filter_id_of_nodup (nodup_coalesce_ids updates)]
    cases (coalesce updates).find? fun u => u.id = e.id <;> rfl
  · have hbefore : ∀ v ∈ before, updateProblem s.reg v = none :=
      fun v hv => (updateProblem_none_iff_mem hnodup).2 (hgood v hv)
    have hreject {d : Diag} (hbad : updateProblem s.reg u = some d) :
        exec (.regApply updates) s = .next ((s.diag d).result .reject) :=
      congrArg Host.Outcome.next (regApply_of_bad (hsplit ▸ batchProblem_of_first_bad hbefore hbad after))
    exact ⟨fun hnew => hreject (updateProblem_of_unknown hnew),
      fun e he hid hsize => hreject (updateProblem_of_size (entryOf_eq hnodup he hid) hsize)⟩

end Sys2Proof.Machine
end

section
/-! The parameter registry: a block of triples, each applied or skipped (spec/43_registry.md R225 to R229). -/

namespace Sys2Proof.Machine

/-! ## One triple is validated and applied as the one request of a batch -/

/-- The request a triple makes. -/
def tripleUpdate (p : ParamId × Bytes) : Update := ⟨p.1, p.2⟩

theorem applyTriple_of_good {p : ParamId × Bytes} {s : State} (h : updateProblem s.reg (tripleUpdate p) = none) :
    applyTriple p.1 p.2 s = ({ s with reg := assign s.reg p.1 p.2 }, 1) := by
  obtain ⟨e, he, hsize⟩ := updateProblem_none_iff.1 h
  rw [applyTriple, show entryOf s.reg p.1 = some e from he]
  exact if_neg (not_not_intro hsize)

theorem applyTriple_of_bad {p : ParamId × Bytes} {s : State} {d : Diag}
    (h : updateProblem s.reg (tripleUpdate p) = some d) : applyTriple p.1 p.2 s = (s.diag d, 0) := by
  rcases applyTriple_cases p.1 p.2 s with ⟨he, htriple⟩ | ⟨e, he, ⟨hsize, htriple⟩ | ⟨hsize, -⟩⟩
  · cases h.symm.trans (updateProblem_of_unknown (entryOf_none_iff.1 he))
    exact htriple
  · cases h.symm.trans (updateProblem_of_size he hsize)
    exact htriple
  · cases h.symm.trans (updateProblem_none_iff.2 ⟨e, he, hsize⟩)

/-! ## An assignment makes no request good or bad (R43) -/

/-- The ID, tag and size of an ID's entry are those of the membership. -/
theorem entryOf_map_members (reg : List RegEntry) (id : ParamId) :
    (entryOf reg id).map (fun e => (e.id, e.tag, e.size)) =
      (reg.map fun e => (e.id, e.tag, e.size)).find? fun m => m.1 = id := by
  rw [entryOf_eq_find?, List.find?_map]
  rfl

/-- The size an ID is declared with is all a validation reads of the table. -/
theorem updateProblem_eq_of_size {reg reg' : List RegEntry} {u : Update}
    (h : (entryOf reg u.id).map RegEntry.size = (entryOf reg' u.id).map RegEntry.size) :
    updateProblem reg u = updateProblem reg' u := by
  cases he : entryOf reg u.id with
  | none =>
    rw [he, Option.map_none, eq_comm, Option.map_eq_none_iff] at h
    rw [updateProblem, updateProblem, he, h]
  | some e =>
    rw [he, Option.map_some, eq_comm, Option.map_eq_some_iff] at h
    obtain ⟨e', he', hsize⟩ := h
    rw [updateProblem, updateProblem, he, he']
    dsimp only
    rw [hsize]

theorem updateProblem_assign (reg : List RegEntry) (id : ParamId) (v : Bytes) :
    updateProblem (assign reg id v) = updateProblem reg := by
  funext u
  apply updateProblem_eq_of_size
  have hmembers : (entryOf (assign reg id v) u.id).map (fun e => (e.id, e.tag, e.size)) =
      (entryOf reg u.id).map (fun e => (e.id, e.tag, e.size)) := by
    rw [entryOf_map_members, entryOf_map_members, assign_members]
  have hsize := congrArg (Option.map fun m => m.2.2) hmembers
  rwa [Option.map_map, Option.map_map] at hsize

/-! ## The loop over whole triples -/

/-- The triples of a block one after another, with the count of those applied. -/
def applyTriples : List (ParamId × Bytes) → State → State × Nat
  | [], s => (s, 0)
  | p :: later, s =>
    ((applyTriples later (applyTriple p.1 p.2 s).1).1,
      (applyTriple p.1 p.2 s).2 + (applyTriples later (applyTriple p.1 p.2 s).1).2)

/-- The loop of REG_PARSE takes the whole triples at the head of a block. -/
theorem parseBlock_triples {triples : List (ParamId × Bytes)} (hlen : ∀ p ∈ triples, p.2.length ≤ 255) (rest : Bytes)
    (offset applied : Nat) (s : State) {rounds : Nat}
    (hrounds : ((triples.flatMap fun p => tripleBytes p.1 p.2) ++ rest).length ≤ rounds) :
    parseBlock rounds offset ((triples.flatMap fun p => tripleBytes p.1 p.2) ++ rest) applied s =
      parseBlock rest.length (offset + (triples.flatMap fun p => tripleBytes p.1 p.2).length) rest
        (applied + (applyTriples triples s).2) (applyTriples triples s).1 := by
  induction triples generalizing offset applied s rounds with
  | nil =>
    have hle : rest.length ≤ rounds := hrounds
    rw [← Nat.add_sub_cancel' hle]
    exact parseBlock_rounds _ _ _ _ _ _ (Nat.le_refl _)
  | cons p later ih =>
    obtain ⟨hp, hlater⟩ := List.forall_mem_cons.1 hlen
    rw [List.flatMap_cons, List.append_assoc] at hrounds ⊢
    rw [parseBlock_triple p.1 _ hp offset applied s hrounds, ih hlater _ _ _ (Nat.le_refl _), applyTriples]
    congr 1
    · simp [tripleBytes]
      omega
    · exact Nat.add_assoc ..

/-- A block of whole triples is these triples and the count. -/
theorem regParse_triples {triples : List (ParamId × Bytes)} (hlen : ∀ p ∈ triples, p.2.length ≤ 255) (s : State) :
    regParse (triples.flatMap fun p => tripleBytes p.1 p.2) s =
      (applyTriples triples s).1.result (.count (applyTriples triples s).2) := by
  have hloop := parseBlock_triples hlen [] 0 0 s (Nat.le_refl _)
  rw [List.append_nil] at hloop
  rw [regParse_eq, hloop, List.length_nil, parseBlock, Nat.zero_add]

/-- Every triple may be validated against the registry as it stood before the block: the good ones are one batch of
assignments, the others leave their diagnostics. -/
theorem applyTriples_eq (triples : List (ParamId × Bytes)) (s : State) :
    applyTriples triples s =
      ({ s with
          reg := assignAll s.reg
            ((triples.filter fun p => (updateProblem s.reg (tripleUpdate p)).isNone).map tripleUpdate)
          diagOut := s.diagOut ++ triples.filterMap fun p => updateProblem s.reg (tripleUpdate p) },
        (triples.filter fun p => (updateProblem s.reg (tripleUpdate p)).isNone).length) := by
  induction triples generalizing s with
  | nil => simp [applyTriples, assignAll]
  | cons p later ih =>
    rw [applyTriples, ih]
    cases hp : updateProblem s.reg (tripleUpdate p) with
    | none =>
      rw [applyTriple_of_good hp]
      simp only [updateProblem_assign, List.filter_cons, List.filterMap_cons, hp, Option.isNone_none, if_true,
        List.map_cons, assignAll_cons, List.length_cons, Nat.add_comm 1]
      rfl
    | some d =>
      rw [applyTriple_of_bad hp]
      simp [hp]

/-- The last request for an ID is the last triple with it. -/
theorem getLast?_filter_map_tripleUpdate (good : ParamId × Bytes → Bool) (triples : List (ParamId × Bytes))
    (id : ParamId) :
    (((triples.filter good).map tripleUpdate).filter fun u => u.id = id).getLast? =
      (triples.filter fun p => p.1 = id && good p).getLast?.map tripleUpdate := by
  rw [List.filter_map, List.filter_filter, List.getLast?_map]
  rfl

/-- What `filterMap` collects stands in the order of the elements it comes from: here, the diagnostics in the order of the
skipped triples (R226, R227). -/
theorem forall₂_filterMap {α β : Type} (f : α → Option β) (as : List α) :
    List.Forall₂ (fun a b => f a = some b) (as.filter fun a => !(f a).isNone) (as.filterMap f) := by
  induction as with
  | nil => exact .nil
  | cons a as ih =>
    cases ha : f a with
    | none => simpa [ha] using ih
    | some b => simpa [ha] using ih

/-- Settles O38: no assignment makes a triple good or bad, so the good ones are a batch of assignments, whose last for each
ID stands. -/
theorem parseAppliesEveryGoodTriple : Obligations.ParseAppliesEveryGoodTriple := by
  intro triples s hnodup hlen good hgood
  obtain rfl : good = fun p => (updateProblem s.reg (tripleUpdate p)).isNone := by
    funext p
    rw [Bool.eq_iff_iff, hgood, Option.isNone_iff_eq_none, updateProblem_none_iff_mem hnodup]
    rfl
  refine ⟨_, congrArg Host.Outcome.next (regParse_triples hlen s), ?_, ?_⟩
  · rw [applyTriples_eq, assignAll_eq_map_writtenBy hnodup]
    unfold State.result
    congr 2
    refine List.map_congr_left fun e _ => ?_
    rw [e.writtenBy_eq_last, getLast?_filter_map_tripleUpdate]
    cases (triples.filter fun p => p.1 = e.id && (updateProblem s.reg (tripleUpdate p)).isNone).getLast? <;> rfl
  · refine ⟨triples.filterMap fun p => updateProblem s.reg (tripleUpdate p), ?_, ?_⟩
    · rw [applyTriples_eq]
      rfl
    · exact (forall₂_filterMap (fun p => updateProblem s.reg (tripleUpdate p)) triples).imp fun _ _ hbad =>
        updateProblem_some_cases hbad

/-- A tail that is too short for its head, or for the length it declares, holds no triple (R228). -/
theorem splitTriple_of_truncated {tail : Bytes} (h : tail.length < 3 ∨ tail.length < (tail.getD 2 0).toNat + 3) :
    splitTriple tail = none := by
  match tail with
  | [] | [_] | [_, _] => rfl
  | lo :: hi :: n :: rest =>
    have hshort : rest.length < n.toNat := by simp at h; omega
    exact if_pos hshort

theorem parseBlock_truncated {tail : Bytes} (hne : tail ≠ []) (hsplit : splitTriple tail = none) (offset applied : Nat)
    (s : State) : parseBlock tail.length offset tail applied s = (s.diag (.regTrunc offset), applied) := by
  cases tail with
  | nil => exact absurd rfl hne
  | cons b bs => rw [List.length_cons, parseBlock, hsplit]

/-- Settles O39: the loop reaches the tail as it would reach the end of the block. -/
theorem parseStopsAtATruncatedTriple : Obligations.ParseStopsAtATruncatedTriple := by
  intro triples tail s u hlen hne hshort hwhole
  obtain rfl : regParse (triples.flatMap fun p => tripleBytes p.1 p.2) s = u := Host.Outcome.next.inj hwhole
  have hloop := (parseBlock_triples hlen tail 0 0 s (Nat.le_refl _)).trans
    (parseBlock_truncated hne (splitTriple_of_truncated hshort) _ _ _)
  rw [Nat.zero_add, Nat.zero_add] at hloop
  refine congrArg Host.Outcome.next ?_
  rw [regParse_eq, hloop, regParse_triples hlen]
  rfl

end Sys2Proof.Machine
end

section
/-! The tick and the connection-state writes (spec/44_tick_host.md R240 to R245): the tick's four steps are instructions of
their own, and without an operation FCB does nothing. -/

namespace Sys2Proof.Machine

/-! ## The tick (R241) -/

theorem dispatchPending_of_pending {s : State} (hp : s.framePending = true) (handler : List ClientOp) :
    dispatchPending handler s = rxRelease (clientOps handler (fields s)) := if_pos hp

theorem dispatchPending_of_not_pending {s : State} (hp : s.framePending = false) (handler : List ClientOp) :
    dispatchPending handler s = s := if_neg (Bool.eq_false_iff.1 hp)

/-- FIELDS is a client operation too, so a dispatch is a run of client operations and then RX_RELEASE. -/
theorem execAll_fields_handler_rxRelease (handler : List ClientOp) (s : State) :
    execAll (.fields :: handler.map ClientOp.toInstr ++ [.rxRelease]) s =
      .next (rxRelease (clientOps handler (fields s))) := by
  have hrun : execAll (.fields :: handler.map ClientOp.toInstr) s = .next (clientOps handler (fields s)) :=
    execAll_toInstr (.fields :: handler) s
  rw [execAll_append, hrun]
  rfl

/-- Step (d) by itself: what its instructions do where a frame is pending, and nothing where none is. -/
theorem dispatchPending_runs (handler : List ClientOp) (s : State) :
    if s.framePending then
      execAll (.fields :: handler.map ClientOp.toInstr ++ [.rxRelease]) s = .next (dispatchPending handler s)
    else dispatchPending handler s = s := by
  split
  · next hp => rw [execAll_fields_handler_rxRelease, dispatchPending_of_pending hp]
  · next hp => exact dispatchPending_of_not_pending (Bool.eq_false_iff.2 hp) handler

theorem dispatchPending_framePending (handler : List ClientOp) (s : State) :
    (dispatchPending handler s).framePending = false := by
  cases hp : s.framePending with
  | true => rw [dispatchPending_of_pending hp, rxRelease_framePending]
  | false => rw [dispatchPending_of_not_pending hp, hp]

/-- Settles O41: under the invariant the drain answers (R146), and the steps after it always complete. -/
theorem tickRunsItsFourSteps : Obligations.TickRunsItsFourSteps := by
  intro drainTimes pollTime stepC stepD s h
  obtain ⟨a, hdrain⟩ := rxDrain_answers h drainTimes
  exact ⟨a, txPoll pollTime a, clientOps stepC (txPoll pollTime a),
    dispatchPending stepD (clientOps stepC (txPoll pollTime a)), hdrain, rfl, execAll_toInstr stepC _,
    dispatchPending_runs stepD _, tick_eq_next.2 ⟨a, hdrain, rfl⟩, dispatchPending_framePending stepD _⟩

/-! ## Without an operation (R69, R240) -/

theorem step_of_no_input {s : State} (hinput : s.input = []) : step s = .next s := by
  simp only [step, hinput]

/-- The line branch of `step`. -/
theorem step_of_line {s : State} {bytes : Bytes} {later : List Input} (hinput : s.input = .line bytes :: later) :
    step s = .next { s with input := later, rxQueue := s.rxQueue ++ bytes } := by
  simp only [step, hinput]

/-- Settles O50: of the three branches of `step` only the packet's performs an operation. -/
theorem nothingHappensBetweenOperations : Obligations.NothingHappensBetweenOperations :=
  fun _ _ _ => ⟨step_of_no_input, step_of_line⟩

/-! ## The connection-state writes (R245) -/

/-- Settles O42: the three cases of `csSet`, each an update of one field. -/
theorem csSetWritesItsField : Obligations.CsSetWritesItsField := fun _ _ _ => ⟨rfl, rfl, rfl⟩

end Sys2Proof.Machine
end

section
/-! Framing errors (spec/60_exceptions.md R264): of a received byte's outcomes only a latched frame and a resynchronization
reach beyond the receiver, and neither comes with a framing diagnostic unless an event is raised. -/

namespace Sys2Proof.Machine

/-- From `s` to `t` only the receiver (R22 to R25) and the diagnostics changed. -/
def TouchesReceiverOnly (s t : State) : Prop :=
  t = { s with
    rxState := t.rxState
    rxCount := t.rxCount
    rxBuf := t.rxBuf
    rxLastTime := t.rxLastTime
    diagOut := t.diagOut }

theorem TouchesReceiverOnly.trans {s t u : State} (h : TouchesReceiverOnly s t) (h' : TouchesReceiverOnly t u) :
    TouchesReceiverOnly s u := by
  unfold TouchesReceiverOnly at *
  rw [h', h]

theorem gapCheck_touchesReceiverOnly (now : Time) (s : State) : TouchesReceiverOnly s (gapCheck now s) := by
  rw [gapCheck_eq]
  rfl

/-- An expired gap leaves IDLE (R142), so a byte that is still inside a frame met no gap. -/
theorem gapCheck_diagOut_of_accum {now : Time} {s : State} (h : (gapCheck now s).rxState = .accum) :
    (gapCheck now s).diagOut = s.diagOut := by
  cases htimeout : s.interByteTimeout now with
  | true =>
    rw [gapCheck_of_timeout htimeout] at h
    cases h
  | false => rw [gapCheck_of_no_timeout htimeout]

/-- The last byte of a frame either discards it, or latches it without a diagnostic (R149, R150). -/
theorem completeFrame_receiverOnly_or_silent (s : State) :
    TouchesReceiverOnly s (completeFrame s) ∨ (completeFrame s).diagOut = s.diagOut := by
  rcases completeFrame_cases s with ⟨-, e⟩ | ⟨-, e⟩ <;> rw [e]
  · exact .inl rfl
  · exact .inr rfl

theorem afterAppend_receiverOnly_or_silent (s : State) :
    TouchesReceiverOnly s (afterAppend s) ∨ (afterAppend s).diagOut = s.diagOut := by
  rcases afterAppend_cases s with ⟨-, -, e⟩ | ⟨-, -, e⟩ | ⟨-, -, e⟩ <;> rw [e]
  · exact .inl rfl
  · exact completeFrame_receiverOnly_or_silent s
  · exact .inr rfl

theorem accumulate_receiverOnly_or_silent {b : Byte} {s t : State} (h : accumulate b s = .next t) :
    TouchesReceiverOnly s t ∨ t.diagOut = s.diagOut := by
  by_cases hroom : (s.rxCount : Nat) < Config.cap
  · rw [accumulate_of_lt hroom] at h
    cases h
    exact (afterAppend_receiverOnly_or_silent _).imp_left
      (TouchesReceiverOnly.trans (by unfold TouchesReceiverOnly; rfl))
  · rw [accumulate_of_not_lt hroom] at h
    cases h

/-- RX_BYTE with a diagnostic and no event touches the receiver only: a resynchronization raises an event, and a byte that
latches a frame neither met a gap nor raised a diagnostic of its own. -/
theorem rxByte_touchesReceiverOnly {b : Byte} {now : Time} {s t : State} (h : rxByte b now s = .next t)
    (hdiag : t.diagOut ≠ s.diagOut) (hevent : t.evOut = s.evOut) : TouchesReceiverOnly s t := by
  refine (gapCheck_touchesReceiverOnly now s).trans ?_
  rcases rxByte_cases b now s with ⟨-, e⟩ | ⟨-, ⟨-, -, e⟩ | ⟨-, -, -, e⟩ | ⟨-, -, -, e⟩ | ⟨haccum, e⟩⟩ <;> rw [e] at h
  · cases h
  · cases h
    rfl
  · cases h
    have hraised : s.evOut ++ [.resync .marker] = s.evOut := (congrArg (· ++ _) (gapCheck_evOut now s)).symm.trans hevent
    simp at hraised
  · cases h
    rfl
  · rw [← gapCheck_diagOut_of_accum haccum] at hdiag
    exact (accumulate_receiverOnly_or_silent h).resolve_right hdiag

/-- Settles O58: the fed byte leaves the queue, and RX_BYTE then touches the receiver only and takes the time. -/
theorem framingErrorsStayInTheReceiver : Obligations.FramingErrorsStayInTheReceiver := by
  intro b now s t h hdiag hevent
  have hbyte := (exec_rxByte_next h).2
  have htime : t.rxLastTime = now := (rxByte_receiverFrame hbyte).rxLastTime
  rw [← htime]
  exact rxByte_touchesReceiverOnly hbyte hdiag hevent

end Sys2Proof.Machine
end
